-- ==== Sys2Proof/Word.lean ====
section
/-! DEFINITION. The words of the machine: what the spec treats as bits (00_scope.md R8, R9). -/

namespace Sys2Proof

/-- The unit memory is addressed in (20_memory.md R70, R76). -/
abbrev Byte := BitVec 8

/-- A 64-bit register or structure field (10_state.md R21). -/
abbrev Word := BitVec 64

/-- A linear address, zero-extended to 64 bits outside 64-bit mode (20_memory.md R70 (b)). -/
abbrev LinAddr := BitVec 64

/-- A physical address (20_memory.md R70 (c)). -/
abbrev PhysAddr := BitVec 64

/-- The number of a 4096-byte page, linear or physical: an address without its low 12 bits. -/
abbrev PageNumber := BitVec 52

end Sys2Proof
end

