-- ==== Sys2Proof/Config.lean ====
section
/-! DEFINITION. What is fixed for the machine: the constants of the source, the shapes of the layouts with the spec's defaults for
them and for the encoding (00_scope.md R7), and the free values, which have no body. The OPEN parameters themselves are plain data in
`Machine.Platform` (log 4); the defaults here are what they are at reset (log 13). -/

namespace Sys2Proof

/-- The access a translation is asked for (20_memory.md R72). -/
inductive Access where
  | read
  | readWrite
  deriving DecidableEq, Repr

namespace Config

/-- `PAGE`, fixed by the source ("4KByte Aligned", "4096 * TMP_SECS.SSAFRAMESIZE"; R7). -/
def pageSize : Nat := 4096

/-- `EENTER_LEAF`: the value of EAX that selects EENTER (R1, R7, R100). -/
def eenterLeaf : BitVec 32 := 0x02

/-! ## The encoding of ENCLU -/

/-- The default of `ENCLU_BYTES`, in address order (R101, D27, GK1): DESIGN CHOICE (unsafe), log 13. Its length is the default of
`ENCLU_LENGTH` (R110). -/
def defaultEncluBytes : List Byte := [0x0F, 0x01, 0xD7]

/-- The match value of the opcode table's one row, first instruction byte in bits 23:16 (R104). -/
def encluMatch : BitVec 24 := 0x0F01D7

/-- The mask of the opcode table's one row: all 24 bits are opcode (R101, R104). -/
def encluMask : BitVec 24 := 0xFFFFFF

/-! ## Layouts -/

/-- A field of a structure in memory: its first byte and how many bytes it has. -/
structure Field where
  offset : Nat
  bytes : Nat
  deriving DecidableEq, Repr

/-- `TCS_LAYOUT`: where each field of a TCS is (R7, R52, D11). -/
structure TcsLayout where
  state : Field
  flags : Field
  ossa : Field
  cssa : Field
  nssa : Field
  oentry : Field
  aep : Field
  ofsbase : Field
  ogsbase : Field
  fslimit : Field
  gslimit : Field
  deriving DecidableEq, Repr

/-- The default of `TCS_LAYOUT` (GK2): DESIGN CHOICE (unsafe), log 13. -/
def defaultTcsLayout : TcsLayout :=
  { state := ⟨0, 8⟩, flags := ⟨8, 8⟩, ossa := ⟨16, 8⟩, cssa := ⟨24, 4⟩, nssa := ⟨28, 4⟩, oentry := ⟨32, 8⟩, aep := ⟨40, 8⟩
    ofsbase := ⟨48, 8⟩, ogsbase := ⟨56, 8⟩, fslimit := ⟨64, 4⟩, gslimit := ⟨68, 4⟩ }

/-- `SECS_LAYOUT`: where each field of a SECS that EENTER reads is (R7, R54, D12). -/
structure SecsLayout where
  size : Field
  baseaddr : Field
  ssaframesize : Field
  /-- The part of ATTRIBUTES that holds INIT and MODE64BIT. -/
  attributes : Field
  /-- ATTRIBUTES.XFRM. -/
  xfrm : Field
  /-- The bit of `attributes` that is INIT (D18). -/
  initBit : Nat
  /-- The bit of `attributes` that is MODE64BIT. -/
  mode64Bit : Nat
  deriving DecidableEq, Repr

/-- The default of `SECS_LAYOUT` (GK3): DESIGN CHOICE (unsafe), log 13. -/
def defaultSecsLayout : SecsLayout :=
  { size := ⟨0, 8⟩, baseaddr := ⟨8, 8⟩, ssaframesize := ⟨16, 4⟩, attributes := ⟨48, 8⟩, xfrm := ⟨56, 8⟩, initBit := 0, mode64Bit := 2 }

/-- `GPRSGX_LAYOUT`: the offsets of U_RSP and U_RBP in the GPR area (R7, R55, D13). -/
structure GprsgxLayout where
  uRsp : Nat
  uRbp : Nat
  deriving DecidableEq, Repr

/-- U_RSP is 8 bytes (R55, R181). -/
def GprsgxLayout.uRspField (l : GprsgxLayout) : Field := ⟨l.uRsp, 8⟩

/-- U_RBP is 8 bytes (R55, R181). -/
def GprsgxLayout.uRbpField (l : GprsgxLayout) : Field := ⟨l.uRbp, 8⟩

/-- The default of `GPRSGX_LAYOUT` (GK4): DESIGN CHOICE (unsafe), log 13. -/
def defaultGprsgxLayout : GprsgxLayout := { uRsp := 144, uRbp := 152 }

/-- The default of `GPRSGX_SIZE`, which serves `sizeof(GPRSGX_AREA)` and `GPR_SIZE` (R155, R157, D10, GK4): DESIGN CHOICE (unsafe), log 13. -/
def defaultGprsgxSize : Nat := 184

/-! ## Values of fields -/

/-- The value of TCS.STATE that encodes INACTIVE (R52). -/
def tcsInactive : Word := 0

/-- The value of TCS.STATE that encodes ACTIVE (R52). -/
def tcsActive : Word := 1

/-- The must-be-zero bits of TCS.FLAGS (R53, R142), fixed by the source. -/
def tcsFlagsReserved : Word := 0xFFFFFFFFFFFFFFFE

/-- The selector EENTER writes to FS and GS (R182, R183). -/
def swapSelector : BitVec 16 := 0x0B

/-- The type EENTER writes to FS and GS, before W is copied from DS (R182, R183). -/
def swapType : BitVec 4 := 0b0001

/-- The only XFRM accepted when CR4.OSXSAVE = 0 (R29, R146). -/
def legacyXfrm : Word := 0x03

/-! ## Free values -/

/-- Why one of EENTER's own EPC or EPCM tests raises #PF: the rows of the table of R223, the cause argument of `PF_ERROR_CODE` (D20). -/
inductive PfCause where
  /-- R127: the TCS is not in the EPC. -/
  | tcsNotInEpc
  /-- R130. -/
  | tcsNotValid
  /-- R131. -/
  | tcsBlocked
  /-- R132: another ENCLAVEADDRESS, or no PT_TCS page. -/
  | tcsNotThisTcs
  /-- R133: PENDING or MODIFIED. -/
  | tcsUnsettled
  /-- R153: an XSAVE page of the SSA frame. -/
  | xsavePage
  /-- R156: the page of the GPR area. -/
  | gprArea
  deriving DecidableEq, Repr

/-- `PF_ERROR_CODE(cause, access)` for a page fault that one of EENTER's own tests raises (R223, D20: OPEN, no default). Free value, safe:
nothing can be proved of it but its width: that a #PF's error code has 32 bits is the model's choice (D20, N18), log 7. -/
opaque pfErrorCode : PfCause → Access → BitVec 32

/-- `XSAVE_FRAME_SIZE` of an XFRM that the platform's table does not list (R150, D9: OPEN, no default; U6). Free value, safe. Log 7. -/
opaque xsaveFrameSize : Word → Word

/-- Whether an opt-out entry sets IA32_PERF_GLOBAL_STATUS[60], and [63], of its own thread (R206, D28, U9: each bit
unchanged or 1). Free values, safe, one for each number. Log 8. -/
opaque freeBit : Nat → Bool

end Config

end Sys2Proof
end

