-- ==== Sys2Proof/Syntax.lean ====
section
/-! DEFINITION. The instructions: one constructor per row of spec/opcode_table.json, and the names a rejected encoding gets. -/

namespace Sys2Proof

/-- The instructions of the opcode table (30_encoding.md R100, R104): one row, operand encoding IR, no explicit operand (R102). -/
inductive Instr where
  /-- ENCLU, whose leaf EENTER is selected by EAX = 02H when it executes (R100). -/
  | encluEenter
  deriving DecidableEq, Repr

/-- Why bytes are no instruction of the model. -/
inductive DecodeError where
  /-- Fewer bytes than the one instruction has (R110). -/
  | truncated (available : Nat)
  /-- As many bytes as the one instruction has that are not a bare ENCLU: another instruction, or a prefixed form (R107, D27). -/
  | notBareEnclu (bytes : List Byte)
  deriving DecidableEq, Repr

end Sys2Proof
end

