-- ==== Sys2Proof/WellFormed.lean ====
section
/-! DEFINITION. Which instructions, and which instruction words, are well formed. -/

namespace Sys2Proof

/-- ENCLU[EENTER] has no operand field (30_encoding.md R101, R102), so there is nothing an instruction could get wrong. -/
def Instr.wellFormed : Instr → Bool
  | .encluEenter => true

/-- The opcode table's match and mask over the three instruction bytes, first byte in the high bits (R104). -/
def wellFormedWord (w : BitVec 24) : Bool := w &&& Config.encluMask == Config.encluMatch

end Sys2Proof
end

