-- ==== Sys2Proof/Decode.lean ====
section
/-! DEFINITION. Decoding of instruction bytes, and the encoder, for a machine whose `ENCLU_BYTES` are given (00_scope.md R7, D27).
Decoding does not depend on the mode (30_encoding.md R108). -/

namespace Sys2Proof

/-- Read one instruction from bytes in address order, with the bytes after it, on a machine whose ENCLU is encoded as `enclu`. Total:
bytes that are no bare ENCLU are rejected by name (R107, D27). -/
def decode (enclu bytes : List Byte) : Except DecodeError (Instr × List Byte) :=
  if bytes.take enclu.length = enclu then .ok (.encluEenter, bytes.drop enclu.length)
  else if bytes.length < enclu.length then .error (.truncated bytes.length)
  else .error (.notBareEnclu (bytes.take enclu.length))

/-- The bytes of an instruction in address order, on a machine whose ENCLU is encoded as `enclu` (R101). -/
def encode (enclu : List Byte) : Instr → List Byte
  | .encluEenter => enclu

/-- The three instruction bytes, in address order, of a word numbered as the opcode table numbers it: the first
instruction byte is in bits 23:16 (R104). The bits from `nbits` up are 0. -/
def tableBytes (nbits w : Nat) : List Byte :=
  let v := BitVec.ofNat 24 (w % 2 ^ nbits)
  [v.extractLsb' 16 8, v.extractLsb' 8 8, v.extractLsb' 0 8]

/-- The instruction the decoder reads from a word of the opcode table, with the bytes of ENCLU that the table gives (R104). A word of more than 24 bits is longer than any
instruction and is refused. -/
def decodeTableWord (nbits w : Nat) : Option Instr :=
  if nbits ≤ 24 then
    match decode Config.defaultEncluBytes (tableBytes nbits w) with
    | .ok (i, _) => some i
    | .error _ => none
  else none

end Sys2Proof
end

