-- ==== Sys2Proof/Machine/State.lean ====
section
/-! DEFINITION. The state of the machine, as plain data (10_state.md), the reasons a step can stop, and the state after reset. -/

namespace Sys2Proof.Machine

/-! ## Reasons to stop -/

/-- A pending debug exception (10_state.md R40). -/
inductive DebugEvent where
  /-- The single-step #DB of R196. -/
  | singleStep
  /-- A debug exception of another cause, pending before the entry (R40; the source names none). -/
  | other (cause : Nat)
  deriving DecidableEq, Repr

/-- The outcome `Fault(F, info)` of 60_exceptions.md R221: the model stops there, delivery being outside the source (D21).
Every constructor is safe: the machine stops where a processor would go on in a handler. -/
inductive Fault where
  /-- `#GP(0)` (R222). Raised by the checks R119 to R160. Safe. -/
  | generalProtection
  /-- `#PF` with its error code, of 32 bits by the model's choice (N18, D20, log 7), and its faulting linear address (R223). Raised by the EPC and EPCM checks R127, R130 to R133,
  R153, R156, and by the translation (R224). Safe. -/
  | pageFault (code : BitVec 32) (address : LinAddr)
  /-- Any other fault that the platform's translation or `ENCLU_PRECHECK` returns (R118, R220 (c), (d), R224). What it carries, a number for
  its kind and 64 bits, and that it is apart from `generalProtection`, is the model's choice (U18), log 31. Safe. -/
  | platform (kind : Nat) (info : Word)
  /-- The pended `#DB` is delivered, with the address of the next instruction (R225). Raised by the step. Safe. -/
  | debugException (events : List DebugEvent) (nextRip : Word)
  /-- The pended MTF VM exit is delivered, with the address of the next instruction (R226). Raised by the step. Safe. -/
  | mtfVmExit (nextRip : Word)
  deriving DecidableEq, Repr

/-- Why the model gives an instruction no meaning. Every constructor is safe: the machine stops. -/
inductive Refusal where
  /-- An instruction of the table without a meaning yet (no arm raises it). Safe. -/
  | notModelled (mnemonic : String)
  /-- "ENCLU leaf not specified": ENCLU with EAX other than 02H (30_encoding.md R105, D35). Safe. -/
  | encluLeafNotSpecified (leaf : BitVec 32)
  /-- The bytes at the instruction pointer are no bare ENCLU (R107, D27). Raised by the step. Safe. -/
  | undecodable (reason : DecodeError)
  deriving DecidableEq, Repr

/-! ## Registers of a logical processor -/

/-- The sixteen general registers (R21, GK17). -/
structure Gprs where
  rax : Word
  rcx : Word
  rdx : Word
  rbx : Word
  rsp : Word
  rbp : Word
  rsi : Word
  rdi : Word
  r8 : Word
  r9 : Word
  r10 : Word
  r11 : Word
  r12 : Word
  r13 : Word
  r14 : Word
  r15 : Word
  deriving DecidableEq, Repr

/-- The access rights of a segment register (R34). `W` is bit 1 of `type` (R35), read and written by accessors. -/
structure AccessRights where
  type : BitVec 4
  s : Bool
  dpl : BitVec 2
  g : Bool
  b : Bool
  p : Bool
  avl : Bool
  l : Bool
  unusable : Bool
  deriving DecidableEq, Repr

/-- A segment register with its hidden parts (R32, R33). `limit` is the highest legal byte offset. -/
structure Segment where
  selector : BitVec 16
  base : Word
  limit : BitVec 32
  ar : AccessRights
  deriving DecidableEq, Repr

/-- Breakpoint and monitor-trap-flag suppression (R38, R40). -/
structure DebugState where
  suppressCodeBpOutsideElrange : Bool
  suppressCodeBpInElrange : Bool
  suppressDataBpInElrange : Bool
  mtfSuppressed : Bool
  deriving DecidableEq, Repr

/-- Performance-monitoring state (R39). `anyThreadDemoted` is what an opt-out entry on a sibling sets here (R205). -/
structure PmuState where
  suppressed : Bool
  pebsSuppressed : Bool
  anyThreadDemoted : Bool
  /-- This thread "has a counter counting in AnyThread mode" (R205); EENTER only reads it. Log 25. -/
  anyThreadCounting : Bool
  deriving DecidableEq, Repr

/-- Pending events (R40). -/
structure PendingState where
  debugExceptions : List DebugEvent
  mtfVmExit : Bool
  /-- The model's own: the boundary after an entry is reached and what is pending is due before the next instruction
  (R199). Log 11. -/
  boundary : Bool
  deriving DecidableEq, Repr

/-- A translation the logical processor has cached: an element of the linear context (R41, R93). -/
structure CachedTranslation where
  page : PageNumber
  frame : PageNumber
  writable : Bool
  deriving DecidableEq, Repr

/-- The internal `CR_` registers (R42, R43). -/
structure CrRegs where
  enclaveMode : Bool
  activeSecs : PhysAddr
  elrangeBase : Word
  elrangeSize : Word
  tcsPa : PhysAddr
  tcsLa : LinAddr
  saveFs : Segment
  saveGs : Segment
  saveXcr0 : Word
  /-- `CR_XSAVE_PAGE_0`, `CR_XSAVE_PAGE_1`, ..., of which R50 bounds no number. One beyond the end of the list holds 0, log 2. -/
  xsavePages : List PhysAddr
  gprPa : PhysAddr
  dbgOptIn : Bool
  saveTf : Bool
  deriving DecidableEq, Repr

/-- One logical processor (60_exceptions.md R250): parts (a) to (h) of R20. -/
structure LogicalProcessor where
  /-- The model's own: which logical processor this is (the source gives no identifiers, R250). Log 12. -/
  id : Nat
  gpr : Gprs
  rip : Word
  rflags : Word
  efer : Word
  cr4 : Word
  xcr0 : Word
  /-- IA32_PERF_GLOBAL_STATUS (R30). That it has 64 bits is not in the source (R30): PRESUMED, as for RFLAGS, IA32_EFER and CR4, log 32. -/
  perfGlobalStatus : Word
  mtfControl : Bool
  cs : Segment
  ss : Segment
  ds : Segment
  es : Segment
  fs : Segment
  gs : Segment
  dbg : DebugState
  pmu : PmuState
  pend : PendingState
  linearContext : List CachedTranslation
  cr : CrRegs
  /-- What `ENCLU_PRECHECK` answers for this logical processor: nothing when it passes (40_eenter.md R118, D6). A datum that no step changes:
  the model's choice, log 5. -/
  encluPrecheck : Option Fault
  deriving DecidableEq, Repr

/-! ## What the logical processors share -/

/-- Physical memory: the bytes that differ from 0, by rising address. An unlisted address reads as 0: DESIGN CHOICE (unsafe), log 3. -/
abbrev Memory := List Host.Cell

/-- Addresses strictly rising and above `low`, no byte 0, every address below 2^64. -/
def Memory.wfAbove : Option Nat → Memory → Bool
  | _, [] => true
  | low, (a, v) :: rest => (match low with | none => true | some l => decide (l < a)) && decide (a < 2 ^ 64) && v != 0
      && Memory.wfAbove (some a) rest

/-- The canonical form of memory: equal memories are equal lists. -/
def Memory.wf (m : Memory) : Bool := Memory.wfAbove none m

/-- Page types of the EPCM (R57, GK12). -/
inductive PageType where
  | ptSecs
  | ptTcs
  | ptReg
  | ptVa
  | ptTrim
  deriving DecidableEq, Repr

/-- An entry of the enclave page cache map (R56). `enclaveSecs` is the physical address of the SECS page (R43, D25). -/
structure EpcmEntry where
  valid : Bool
  blocked : Bool
  pending : Bool
  modified : Bool
  r : Bool
  w : Bool
  pt : PageType
  enclaveAddress : LinAddr
  enclaveSecs : PhysAddr
  deriving DecidableEq, Repr

/-- An SGX instruction that the logical processor `holder` executes is operating on the TCS in the physical page `frame` (R58, R129, R209). -/
structure TcsLock where
  frame : PageNumber
  holder : Nat
  exclusive : Bool
  deriving DecidableEq, Repr

/-- The logical processor `holder` has the SECS at this physical address in use (R137). -/
structure SecsUse where
  secs : PhysAddr
  holder : Nat
  deriving DecidableEq, Repr

/-! ## The platform: the OPEN parameters of 00_scope.md R7, as plain data (log 4) -/

/-- A fault that the platform's translation returns (R224). A page fault is about the linear address accessed; that its code has 32 bits is
the model's choice (N18, D20), log 7. Which other faults there are is open (U18): that each is a number for its kind and 64 bits of
information, with no address, and never `Fault.generalProtection`, is the model's choice, log 31. -/
inductive TranslationFault where
  | pageFault (code : BitVec 32)
  | other (kind : Nat) (info : Word)
  deriving DecidableEq, Repr

/-- What the paging structures answer to one kind of access to a page: its physical page, or a fault. -/
inductive PageAnswer where
  | frame (frame : PageNumber)
  | fault (fault : TranslationFault)
  deriving DecidableEq, Repr

/-- What the paging structures say of one linear page: an answer of its own to each kind of access (R72, D24). That an answer is for a
whole page is the model's choice, log 9. -/
structure Mapping where
  read : PageAnswer
  readWrite : PageAnswer
  deriving DecidableEq, Repr

/-- One linear page and its mapping. -/
structure PageEntry where
  page : PageNumber
  mapping : Mapping
  deriving DecidableEq, Repr

/-- What a linear page that the page map does not list translates to: itself, or a fault for each kind of access. -/
inductive Unlisted where
  | identity
  | absent (onRead onReadWrite : TranslationFault)
  deriving DecidableEq, Repr

/-- `count` physical pages of the EPC from page `first` on (R82, D31). -/
structure EpcRange where
  first : PageNumber
  count : Nat
  deriving DecidableEq, Repr

/-- `PEND_ORDER` (R197, D36). -/
inductive PendOrder where
  | debugFirst
  | mtfFirst
  deriving DecidableEq, Repr

/-- The OPEN parameters. No step changes them. -/
structure Platform where
  /-- `LA_WIDTH` (R73, D19). -/
  laWidth : Nat
  /-- `Translate` (R72, D24). The first entry of a page counts. -/
  pageMap : List PageEntry
  unlisted : Unlisted
  /-- `EPC` (R82, D31). -/
  epc : List EpcRange
  /-- `XSAVE_FRAME_SIZE` (R150, D9); an XFRM not listed has the size `Config.xsaveFrameSize` leaves free. -/
  xsaveSizes : List (Word × Word)
  /-- `SSA_LOOP_INCLUSIVE` (R151, D8). -/
  ssaLoopInclusive : Bool
  pendOrder : PendOrder
  /-- `siblings(lp)`: the pairs (`id` of lp, `id` of one of its siblings) (R205, D37). -/
  siblings : List (Nat × Nat)
  /-- `ENCLU_BYTES` in address order; their number is `ENCLU_LENGTH` (R101, R110, D27). -/
  encluBytes : List Byte
  /-- `TCS_LAYOUT` (R52, D11). -/
  tcsLayout : Config.TcsLayout
  /-- `SECS_LAYOUT` (R54, D12). -/
  secsLayout : Config.SecsLayout
  /-- `GPRSGX_SIZE` (R155, D10). -/
  gprsgxSize : Nat
  /-- `GPRSGX_LAYOUT` (R55, R181, D13). -/
  gprsgxLayout : Config.GprsgxLayout
  deriving DecidableEq, Repr

/-- The machine: the executing logical processor, the others, and what they share (R20, R252). -/
structure State where
  lp : LogicalProcessor
  others : List LogicalProcessor
  /-- The model's own: at each step's end, which of `others` executes next; none left means the same one goes on (R211). Log 12. -/
  order : List Nat
  mem : Memory
  epcm : List (PageNumber × EpcmEntry)
  tcsLocks : List TcsLock
  secsUses : List SecsUse
  platform : Platform
  /-- The model's own: the number of the next free bit (`Config.freeBit`). Log 8. -/
  freeNext : Nat
  deriving DecidableEq, Repr

/-! ## Reset (R60, R261) -/

/-- All general registers 0 but RDX: PRESUMED (unsafe), the family's values, log 1. -/
def Gprs.reset : Gprs :=
  { rax := 0, rcx := 0, rdx := 0x600, rbx := 0, rsp := 0, rbp := 0, rsi := 0, rdi := 0
    r8 := 0, r9 := 0, r10 := 0, r11 := 0, r12 := 0, r13 := 0, r14 := 0, r15 := 0 }

/-- Present, writable, accessed data rights: PRESUMED (unsafe), the family's values, log 1. -/
def AccessRights.reset : AccessRights :=
  { type := 0b0011, s := true, dpl := 0, g := false, b := false, p := true, avl := false, l := false, unusable := false }

/-- A data segment register after reset: PRESUMED (unsafe), the family's values, log 1. -/
def Segment.resetData : Segment := { selector := 0, base := 0, limit := 0xFFFF, ar := AccessRights.reset }

/-- CS after reset: PRESUMED (unsafe), the family's values, log 1. -/
def Segment.resetCode : Segment := { selector := 0xF000, base := 0xFFFF0000, limit := 0xFFFF, ar := AccessRights.reset }

/-- A saved segment register before any entry: DESIGN CHOICE (unsafe), log 2. -/
def Segment.zero : Segment :=
  { selector := 0, base := 0, limit := 0
    ar := { type := 0, s := false, dpl := 0, g := false, b := false, p := false, avl := false, l := false, unusable := false } }

/-- The `CR_` registers after reset: CR_ENCLAVE_MODE = 0 (R60, R261, D22); the others, every CR_XSAVE_PAGE_n among them, are 0: DESIGN
CHOICE (unsafe), log 2. -/
def CrRegs.reset : CrRegs :=
  { enclaveMode := false, activeSecs := 0, elrangeBase := 0, elrangeSize := 0, tcsPa := 0, tcsLa := 0
    saveFs := Segment.zero, saveGs := Segment.zero, saveXcr0 := 0, xsavePages := [], gprPa := 0
    dbgOptIn := false, saveTf := false }

/-- One logical processor after reset. The suppression flags are false and the pending events empty (R60, R261, D22); the rest is
PRESUMED or DESIGN CHOICE (unsafe), logs 1, 2, 5, 9, 11. -/
def LogicalProcessor.reset : LogicalProcessor :=
  { id := 0, gpr := Gprs.reset, rip := 0xFFF0, rflags := 0x2, efer := 0, cr4 := 0, xcr0 := 1, perfGlobalStatus := 0
    mtfControl := false
    cs := Segment.resetCode, ss := Segment.resetData, ds := Segment.resetData, es := Segment.resetData
    fs := Segment.resetData, gs := Segment.resetData
    dbg := { suppressCodeBpOutsideElrange := false, suppressCodeBpInElrange := false, suppressDataBpInElrange := false
             mtfSuppressed := false }
    pmu := { suppressed := false, pebsSuppressed := false, anyThreadDemoted := false, anyThreadCounting := false }
    pend := { debugExceptions := [], mtfVmExit := false, boundary := false }
    linearContext := [], cr := CrRegs.reset, encluPrecheck := none }

/-- The platform of the reset state, the spec's defaults where it gives them: DESIGN CHOICE (unsafe), logs 4 and 13. -/
def Platform.reset : Platform :=
  { laWidth := 48, pageMap := [], unlisted := .identity, epc := [], xsaveSizes := [(0x03, 576)]
    ssaLoopInclusive := false, pendOrder := .debugFirst, siblings := []
    encluBytes := Config.defaultEncluBytes, tcsLayout := Config.defaultTcsLayout, secsLayout := Config.defaultSecsLayout
    gprsgxSize := Config.defaultGprsgxSize, gprsgxLayout := Config.defaultGprsgxLayout }

/-- The machine right after reset (R60, R261): one logical processor, memory with nothing listed, logs 1 to 12. -/
def State.reset : State :=
  { lp := LogicalProcessor.reset, others := [], order := [], mem := [], epcm := [], tcsLocks := [], secsUses := []
    platform := Platform.reset, freeNext := 0 }

end Sys2Proof.Machine
end

