-- ==== Sys2Proof/Machine/Flags.lean ====
section
/-! DEFINITION. Bits of registers: RFLAGS.TF, IA32_EFER.LMA, CR4, IA32_PERF_GLOBAL_STATUS, the access rights, TCS.FLAGS
(10_state.md R25 to R36, R53), and the flag computations of the spec. -/

namespace Sys2Proof.Machine

/-- `v` with bit `i` set to `b` and every other bit as it was. -/
def withBit (v : Word) (i : Nat) (b : Bool) : Word :=
  if b then v ||| BitVec.twoPow 64 i else v &&& ~~~(BitVec.twoPow 64 i)

/-- RFLAGS.TF is bit 8 (R25, GK11). -/
def tfBit : Nat := 8

/-- RFLAGS.TF (R25). -/
def LogicalProcessor.tf (lp : LogicalProcessor) : Bool := lp.rflags.getLsbD tfBit

/-- IA32_EFER.LMA, bit 10 (R27, GK11). -/
def LogicalProcessor.lma (lp : LogicalProcessor) : Bool := lp.efer.getLsbD 10

/-- CR4.OSFXSR, bit 9 (R28, GK11). -/
def LogicalProcessor.osfxsr (lp : LogicalProcessor) : Bool := lp.cr4.getLsbD 9

/-- CR4.OSXSAVE, bit 18 (R28, GK11). -/
def LogicalProcessor.osxsave (lp : LogicalProcessor) : Bool := lp.cr4.getLsbD 18

/-- `TMP_MODE64` (R120): 64-bit mode against everything else. -/
def LogicalProcessor.mode64 (lp : LogicalProcessor) : Bool := lp.lma && lp.cs.ar.l

/-- The base of a segment as it counts outside 64-bit mode: its low 32 bits (R32). That the other bits are no part of the base which R122
to R124 compare with 0 is DEDUCED from R32 (unsafe), log 29. -/
def Segment.base32 (seg : Segment) : BitVec 32 := seg.base.setWidth 32

/-- `CR_XSAVE_PAGE_n` (R43, R50): every one holds a value, 0 where the list of those written ends before it (log 2). -/
def CrRegs.xsavePage (cr : CrRegs) (n : Nat) : PhysAddr := cr.xsavePages.getD n 0

/-- The write-enable bit `W` of a data segment is bit 1 of its type (R35, GK8). -/
def AccessRights.w (ar : AccessRights) : Bool := ar.type.getLsbD 1

/-- An expand-down data segment as the source tests DS: `S = 1`, bit 11 = 0, bit 10 = 1 (R35, R121). -/
def AccessRights.expandDownData (ar : AccessRights) : Bool := ar.s && !ar.type.getLsbD 3 && ar.type.getLsbD 2

/-- A segment type with `W` written (R35). -/
def typeWithW (type : BitVec 4) (w : Bool) : BitVec 4 := if w then type ||| 0b0010 else type &&& 0b1101

/-- TCS.FLAGS.DBGOPTIN, bit 0 (R53, D26). -/
def dbgOptInBit (flags : Word) : Bool := flags.getLsbD 0

/-- IA32_PERF_GLOBAL_STATUS with bit `i` set when `b` holds, else as it was: EENTER never clears a bit of it (R30). -/
def setStatusBit (v : Word) (i : Nat) (b : Bool) : Word := if b then withBit v i true else v

/-- RFLAGS after an entry: TF cleared on an opt-out entry, no other flag affected (R195 (c), R200). -/
def rflagsAfterEntry (rflags : Word) (optIn : Bool) : Word := if optIn then rflags else withBit rflags tfBit false

/-- What a POPF that would set TF to `requested` leaves in TF: inside an enclave entered by an opt-out entry it is clear (R201).
POPF itself is outside the source (R6); log 28. -/
def tfAfterPopf (lp : LogicalProcessor) (requested : Bool) : Bool :=
  if lp.cr.enclaveMode && !lp.cr.dbgOptIn then false else requested

end Sys2Proof.Machine
end

