-- ==== Sys2Proof/Machine/Ops.lean ====
section
/-! DEFINITION. The named operations over memory, translation, the EPC and the EPCM, and the raising of a fault
(20_memory.md, 60_exceptions.md). -/

namespace Sys2Proof.Machine

/-! ## Raising a fault -/

/-- `#GP(0)` (R222). -/
def gp0 : Fault := .generalProtection

/-- `#PF` of one of EENTER's own EPC or EPCM tests on the linear address `la` (R223). Every such test is made on a page that was
translated for read/write (R127 with D24, R152, R156). -/
def sgxPageFault (cause : Config.PfCause) (la : LinAddr) : Fault := .pageFault (Config.pfErrorCode cause .readWrite) la

/-- `IF c THEN raise f` (R11, R13): nothing after it runs. -/
def raiseIf (c : Bool) (f : Fault) : Except Fault Unit := if c then .error f else .ok ()

/-- Taking an exception: the outcome is the fault with its code and address, and the state is the state before (R161, R221, D21).
What a handler is entered with is not in the source (R232), and neither is a return from one (R233). -/
def takeFault (f : Fault) : Host.Outcome State Fault Refusal := .fault f

/-! ## Pages -/

/-- The number of the page of an address. -/
def pageNumber (a : Word) : PageNumber := a.extractLsb' 12 52

/-- The low 12 bits of an address. -/
def pageOffset (a : Word) : BitVec 12 := a.extractLsb' 0 12

/-- `LA(A)` with its low 12 bits cleared (R83). -/
def pageBase (a : Word) : Word := pageNumber a ++ (0 : BitVec 12)

/-- "4KByte Aligned": the low 12 bits are zero (R77). -/
def aligned4K (a : Word) : Bool := pageOffset a == 0

/-- The physical address in page `frame` at the offset of `la` in its page. -/
def physAt (frame : PageNumber) (la : LinAddr) : PhysAddr := frame ++ pageOffset la

/-! ## Bytes of physical memory -/

/-- One byte: 0 where none is listed (log 3). -/
def Memory.byte : Memory → Nat → Byte
  | [], _ => 0
  | (b, v) :: rest, a => if a = b then v else Memory.byte rest a

/-- Write one byte, keeping the canonical form: a byte written 0 is not listed. -/
def Memory.setByte : Memory → Nat → Byte → Memory
  | [], a, v => if v = 0 then [] else [(a, v)]
  | (b, w) :: rest, a, v =>
    if a < b then (if v = 0 then (b, w) :: rest else (a, v) :: (b, w) :: rest)
    else if a = b then (if v = 0 then rest else (a, v) :: rest)
    else (b, w) :: Memory.setByte rest a v

/-- The `n` bytes from `pa` on as an unsigned number, the lowest address in bits 7:0 (R74, R76, D1). A field that a layout does not align
naturally is read like any other, byte by byte and without a fault: the split-access rule R78 asks for, the model's choice, log 34. -/
def Memory.readLe (m : Memory) (pa : PhysAddr) : Nat → Nat
  | 0 => 0
  | n + 1 => (Memory.byte m pa.toNat).toNat + 256 * Memory.readLe m (pa + 1) n

/-- Store the low `8n` bits of `v` in the `n` bytes from `pa` on (R75, R76, D1), misaligned or not, without a fault (R78): the model's choice,
log 34. -/
def Memory.writeLe (m : Memory) (pa : PhysAddr) : Nat → Nat → Memory
  | 0, _ => m
  | n + 1, v => Memory.writeLe (Memory.setByte m pa.toNat (BitVec.ofNat 8 v)) (pa + 1) n (v / 256)

/-- The physical address `off` bytes into the structure at `pa`. -/
def fieldAt (pa : PhysAddr) (off : Nat) : PhysAddr := pa + BitVec.ofNat 64 off

/-- The field of the structure at `pa`, zero-extended to 64 bits (R74). -/
def Memory.readField (m : Memory) (pa : PhysAddr) (f : Config.Field) : Word :=
  BitVec.ofNat 64 (Memory.readLe m (fieldAt pa f.offset) f.bytes)

/-- Store the low bits of `v` in the field of the structure at `pa` (R75). -/
def Memory.writeField (m : Memory) (pa : PhysAddr) (f : Config.Field) (v : Word) : Memory :=
  Memory.writeLe m (fieldAt pa f.offset) f.bytes v.toNat

/-! ## Translation (R72, D24, log 9) -/

/-- A translation fault is about the linear address accessed (R224). -/
def TranslationFault.toFault (f : TranslationFault) (la : LinAddr) : Fault :=
  match f with
  | .pageFault code => .pageFault code la
  | .other kind info => .platform kind info

/-- The first cached translation of the page that allows the access (R41). -/
def cachedFrame : List CachedTranslation → PageNumber → Access → Option PageNumber
  | [], _, _ => none
  | c :: rest, page, acc =>
    if c.page = page ∧ (acc = .read ∨ c.writable = true) then some c.frame else cachedFrame rest page acc

/-- The first entry of the page. -/
def pageMapping : List PageEntry → PageNumber → Option Mapping
  | [], _ => none
  | e :: rest, page => if e.page = page then some e.mapping else pageMapping rest page

/-- The answer of a mapping to one kind of access (R72). -/
def Mapping.answer (m : Mapping) : Access → PageAnswer
  | .read => m.read
  | .readWrite => m.readWrite

/-- A page that both kinds of access find in physical page `frame`. -/
def mapTo (frame : PageNumber) : Mapping := { read := .frame frame, readWrite := .frame frame }

/-- What the paging structures say of the page: its entry, or what an unlisted page does. -/
def mappingOf (p : Platform) (page : PageNumber) : Mapping :=
  match pageMapping p.pageMap page with
  | some m => m
  | none =>
    match p.unlisted with
    | .identity => mapTo page
    | .absent onRead onReadWrite => { read := .fault onRead, readWrite := .fault onReadWrite }

/-- The platform's paging structures asked for a page and an access: the answer, frame or fault, may differ with the access (R72, D24,
U18). It is one answer for every address of the page, but for the address a #PF reports: the model's choice, log 9. -/
def walk (p : Platform) (la : LinAddr) (acc : Access) : Except Fault PageNumber :=
  match (mappingOf p (pageNumber la)).answer acc with
  | .frame frame => .ok frame
  | .fault f => .error (f.toFault la)

/-- The page a linear address is in physically: from the linear context where it holds the translation, else from the
paging structures. -/
def translatePage (s : State) (la : LinAddr) (acc : Access) : Except Fault PageNumber :=
  match cachedFrame s.lp.linearContext (pageNumber la) acc with
  | some frame => .ok frame
  | none => walk s.platform la acc

/-- `Translate(la, access)` (R72). -/
def translate (s : State) (la : LinAddr) (acc : Access) : Except Fault PhysAddr :=
  match translatePage s la acc with
  | .ok frame => .ok (physAt frame la)
  | .error f => .error f

/-- `MemRead(la, n)` (R74). -/
def memRead (s : State) (la : LinAddr) (n : Nat) : Except Fault Nat :=
  match translate s la .read with
  | .ok pa => .ok (Memory.readLe s.mem pa n)
  | .error f => .error f

/-- `MemWrite(la, n, v)` (R75). -/
def memWrite (s : State) (la : LinAddr) (n v : Nat) : Except Fault State :=
  match translate s la .readWrite with
  | .ok pa => .ok { s with mem := Memory.writeLe s.mem pa n v }
  | .error f => .error f

/-! ## EPC, EPCM and the locks -/

/-- The physical address is in a page of the EPC (R82, D31). -/
def inEpc (p : Platform) (pa : PhysAddr) : Bool :=
  p.epc.any fun r => decide (r.first.toNat ≤ (pageNumber pa).toNat) && decide ((pageNumber pa).toNat < r.first.toNat + r.count)

/-- What the EPCM holds for an EPC page that it does not list: no valid entry. DESIGN CHOICE, log 2. -/
def EpcmEntry.invalid : EpcmEntry :=
  { valid := false, blocked := false, pending := false, modified := false, r := false, w := false, pt := .ptReg
    enclaveAddress := 0, enclaveSecs := 0 }

/-- The first entry of the page. -/
def epcmLookup : List (PageNumber × EpcmEntry) → PageNumber → EpcmEntry
  | [], _ => EpcmEntry.invalid
  | (page, e) :: rest, frame => if page = frame then e else epcmLookup rest frame

/-- `EPCM(A)` for an address `A` that translates to `pa` (R83, D25). -/
def epcmAt (s : State) (pa : PhysAddr) : EpcmEntry := epcmLookup s.epcm (pageNumber pa)

/-- `id` names a logical processor of the machine other than the executing one: with one logical processor none does (R129, R251). -/
def isAnother (s : State) (id : Nat) : Bool := id != s.lp.id && s.others.any fun o => o.id == id

/-- `tcs_busy`: another logical processor is in the middle of an SGX instruction that holds the TCS page exclusively (R129, R209,
D15, log 6). -/
def tcsBusy (s : State) (pa : PhysAddr) : Bool :=
  s.tcsLocks.any fun l => l.frame == pageNumber pa && l.exclusive && isAnother s l.holder

/-- `secs_in_use`: another logical processor has the SECS in use (R137, D17, log 6). -/
def secsInUse (s : State) (secs : PhysAddr) : Bool :=
  s.secsUses.any fun u => u.secs == secs && isAnother s u.holder

/-- The first size listed for the XFRM. -/
def listedXsaveSize : List (Word × Word) → Word → Option Word
  | [], _ => none
  | (x, n) :: rest, xfrm => if x = xfrm then some n else listedXsaveSize rest xfrm

/-- `XSAVE_FRAME_SIZE(xfrm)`: what the platform lists, else a free value (R150, D9, U6, log 7). -/
def xsaveFrameSize (p : Platform) (xfrm : Word) : Word :=
  match listedXsaveSize p.xsaveSizes xfrm with
  | some n => n
  | none => Config.xsaveFrameSize xfrm

/-! ## The other logical processors -/

/-- `t` is one of the "other threads" of logical processor `id` (R205, D37). -/
def isSibling (p : Platform) (id t : Nat) : Bool := p.siblings.any fun q => q.1 == id && q.2 == t

/-- End of a step: the logical processor that the order names next takes the place of the executing one (R211, log 12).
A number that names none of the others changes nothing but the order. -/
def advance (s : State) : State :=
  match s.order with
  | [] => s
  | n :: rest =>
    match s.others[n]? with
    | none => { s with order := rest }
    | some t => { s with lp := t, others := s.others.set n s.lp, order := rest }

/-- The step ends: the next logical processor in the order executes next (R211, log 12). -/
def finishStep : Host.Outcome State Fault Refusal → Host.Outcome State Fault Refusal
  | .next t => .next (advance t)
  | .fault f => .fault f
  | .refused r => .refused r

end Sys2Proof.Machine
end

