-- ==== Sys2Proof/Machine/Operands.lean ====
section
/-! DEFINITION. The operands of ENCLU[EENTER]: registers and addresses at XLEN bits, the TCS and the SECS, and the temporaries `TMP_*`
(40_eenter.md R115, R117). -/

namespace Sys2Proof.Machine

/-! ## Widths and addresses -/

/-- `zext_64(trunc_XLEN(v))`, XLEN = 64 in 64-bit mode and 32 otherwise (R9, D2, D3). -/
def truncXlen (mode64 : Bool) (v : Word) : Word := if mode64 then v else (v.setWidth 32).setWidth 64

/-- The base of CS, DS, ES or SS in an address: zero in 64-bit mode (R71, D4). -/
def segBase (mode64 : Bool) (seg : Segment) : Word := if mode64 then 0 else seg.base

/-- `LA(SEG, off) = trunc_XLEN(SEG.base + off)` (R71, D4). -/
def linear (mode64 : Bool) (seg : Segment) (off : Word) : LinAddr := truncXlen mode64 (segBase mode64 seg + off)

/-- A 64-bit address is canonical when its bits 63 down to `laWidth - 1` are all equal (R73, D19). -/
def canonical (laWidth : Nat) (a : Word) : Bool :=
  let top := a.toNat >>> (laWidth - 1)
  top == 0 || top == 2 ^ (64 - (laWidth - 1)) - 1

/-- EAX, the low 32 bits of RAX: the leaf number (R22, R100). -/
def LogicalProcessor.eax (lp : LogicalProcessor) : BitVec 32 := lp.gpr.rax.setWidth 32

/-- `LA(DS, x[RBX])`: where the TCS is (R115, R126). -/
def tcsLinear (lp : LogicalProcessor) : LinAddr := linear lp.mode64 lp.ds lp.gpr.rbx

/-- `LA(CS, x[RCX])`: the AEP (R115, R128). -/
def aepLinear (lp : LogicalProcessor) : LinAddr := linear lp.mode64 lp.cs lp.gpr.rcx

/-- The address of the instruction following ENCLU, truncated to XLEN bits (R24, R110). -/
def nextRip (s : State) : Word := truncXlen s.lp.mode64 (s.lp.rip + BitVec.ofNat 64 s.platform.encluBytes.length)

/-! ## The TCS and the SECS (R52, R54), read once: every field read twice reads the same (R80). A field has the layout's
width, and counts zero-extended to 64 bits, a segment limit at 32 (R32, log 13). -/

/-- The fields of a TCS that EENTER reads (R52). -/
structure Tcs where
  state : Word
  flags : Word
  ossa : Word
  cssa : Word
  nssa : Word
  oentry : Word
  ofsbase : Word
  ogsbase : Word
  fslimit : BitVec 32
  gslimit : BitVec 32
  deriving DecidableEq, Repr

/-- The TCS in the page at physical address `pa` (R52, R74). -/
def readTcs (l : Config.TcsLayout) (m : Memory) (pa : PhysAddr) : Tcs :=
  { state := Memory.readField m pa l.state
    flags := Memory.readField m pa l.flags
    ossa := Memory.readField m pa l.ossa
    cssa := Memory.readField m pa l.cssa
    nssa := Memory.readField m pa l.nssa
    oentry := Memory.readField m pa l.oentry
    ofsbase := Memory.readField m pa l.ofsbase
    ogsbase := Memory.readField m pa l.ogsbase
    fslimit := (Memory.readField m pa l.fslimit).setWidth 32
    gslimit := (Memory.readField m pa l.gslimit).setWidth 32 }

/-- The fields of a SECS that EENTER reads (R54). -/
structure Secs where
  baseaddr : Word
  size : Word
  ssaframesize : Word
  init : Bool
  mode64bit : Bool
  xfrm : Word
  deriving DecidableEq, Repr

/-- The SECS in the page at physical address `pa` (R54, R74). INIT and MODE64BIT are bits of ATTRIBUTES (GK3, D18). -/
def readSecs (l : Config.SecsLayout) (m : Memory) (pa : PhysAddr) : Secs :=
  { baseaddr := Memory.readField m pa l.baseaddr
    size := Memory.readField m pa l.size
    ssaframesize := Memory.readField m pa l.ssaframesize
    init := (Memory.readField m pa l.attributes).getLsbD l.initBit
    mode64bit := (Memory.readField m pa l.attributes).getLsbD l.mode64Bit
    xfrm := Memory.readField m pa l.xfrm }

/-! ## The temporaries, as functions of the state and of the physical address `pa` of the TCS -/

/-- The TCS at `pa`, the physical address that R127's read/write translation gave. Every field is read there, with no translation for a read
of its own (R74, R224), also where the platform would answer that one otherwise: the model's choice, log 30. -/
def tcsAt (s : State) (pa : PhysAddr) : Tcs := readTcs s.platform.tcsLayout s.mem pa

/-- `TMP_SECS`: the SECS of the enclave the TCS belongs to, `EPCM(DS:RBX).ENCLAVESECS` (R136, D25). -/
def tmpSecs (s : State) (pa : PhysAddr) : PhysAddr := (epcmAt s pa).enclaveSecs

/-- `SECS(TMP_SECS)`. -/
def secsAt (s : State) (pa : PhysAddr) : Secs := readSecs s.platform.secsLayout s.mem (tmpSecs s pa)

/-- `TMP_FSBASE` (R138, R141). -/
def tmpFsBase (s : State) (pa : PhysAddr) : LinAddr :=
  truncXlen s.lp.mode64 ((tcsAt s pa).ofsbase + (secsAt s pa).baseaddr)

/-- `TMP_GSBASE` (R138, R141). -/
def tmpGsBase (s : State) (pa : PhysAddr) : LinAddr :=
  truncXlen s.lp.mode64 ((tcsAt s pa).ogsbase + (secsAt s pa).baseaddr)

/-- `TMP_FSLIMIT` (R138; used outside 64-bit mode only). -/
def tmpFsLimit (s : State) (pa : PhysAddr) : LinAddr :=
  truncXlen s.lp.mode64 ((tcsAt s pa).ofsbase + (secsAt s pa).baseaddr + (tcsAt s pa).fslimit.setWidth 64)

/-- `TMP_GSLIMIT` (R138; used outside 64-bit mode only). -/
def tmpGsLimit (s : State) (pa : PhysAddr) : LinAddr :=
  truncXlen s.lp.mode64 ((tcsAt s pa).ogsbase + (secsAt s pa).baseaddr + (tcsAt s pa).gslimit.setWidth 64)

/-- The size of an SSA frame in bytes, `4096 * SECS.SSAFRAMESIZE`. -/
def frameBytes (s : State) (pa : PhysAddr) : Word :=
  BitVec.ofNat 64 Config.pageSize * (secsAt s pa).ssaframesize

/-- `TMP_SSA` (R149). -/
def tmpSsa (s : State) (pa : PhysAddr) : LinAddr :=
  truncXlen s.lp.mode64
    ((tcsAt s pa).ossa + (secsAt s pa).baseaddr + frameBytes s pa * (tcsAt s pa).cssa)

/-- `TMP_XSIZE` (R150). -/
def tmpXsize (s : State) (pa : PhysAddr) : Word := xsaveFrameSize s.platform (secsAt s pa).xfrm

/-- The number of pages the loop visits for an XSAVE area of `xsize` bytes: `ceil(TMP_XSIZE / 4096)`, or one for each page up to the
one of the byte at `TMP_SSA + TMP_XSIZE` (R151, D8). -/
def xsavePageCount (inclusive : Bool) (xsize : Word) : Nat :=
  if inclusive then xsize.toNat / Config.pageSize + 1 else (xsize.toNat + (Config.pageSize - 1)) / Config.pageSize

/-- The `n`-th value of `TMP_SSA_PAGE` (R151), aligned down when the SECS's BASEADDR is not page aligned (D32, log 14). -/
def tmpSsaPage (s : State) (pa : PhysAddr) (n : Nat) : LinAddr :=
  pageBase (truncXlen s.lp.mode64 (tmpSsa s pa + BitVec.ofNat 64 (Config.pageSize * n)))

/-- `TMP_GPR` (R155). -/
def tmpGpr (s : State) (pa : PhysAddr) : LinAddr :=
  truncXlen s.lp.mode64 (tmpSsa s pa + frameBytes s pa - BitVec.ofNat 64 s.platform.gprsgxSize)

/-- The last byte of the GPR area, `TMP_GPR + (GPR_SIZE - 1)` (R157). -/
def gprEnd (s : State) (pa : PhysAddr) : LinAddr :=
  truncXlen s.lp.mode64 (tmpGpr s pa + BitVec.ofNat 64 (s.platform.gprsgxSize - 1))

/-- `TMP_TARGET` (R159). -/
def tmpTarget (s : State) (pa : PhysAddr) : LinAddr :=
  truncXlen s.lp.mode64 ((tcsAt s pa).oentry + (secsAt s pa).baseaddr)

end Sys2Proof.Machine
end

