-- ==== Sys2Proof/Machine/Eenter.lean ====
section
/-! DEFINITION. ENCLU[EENTER]: the check phase (40_eenter.md R116 to R161), the commit phase (41_eenter_commit.md R170 to R206)
and the instruction's meaning. -/

namespace Sys2Proof.Machine

/-! ## The check phase: in the order of R116, the first failing check ends the instruction (R230) -/

/-- ENCLU's own preconditions (R118) and the enclave-mode check (R119, D5). -/
def checkEnclu (lp : LogicalProcessor) : Except Fault Unit :=
  match lp.encluPrecheck with
  | some f => .error f
  | none => raiseIf lp.cr.enclaveMode gp0

/-- The segment checks made outside 64-bit mode (R121 to R125). Of a base, its low 32 bits count there (R32, log 29). -/
def checkSegments (lp : LogicalProcessor) : Except Fault Unit := do
  raiseIf (!lp.mode64 && (lp.ds.ar.unusable || lp.ds.ar.expandDownData)) gp0
  raiseIf (!lp.mode64 && (lp.cs.base32 != 0 || lp.ds.base32 != 0)) gp0
  raiseIf (!lp.mode64 && (!lp.es.ar.unusable && lp.es.base32 != 0)) gp0
  raiseIf (!lp.mode64 && (!lp.ss.ar.unusable && lp.ss.base32 != 0)) gp0
  raiseIf (!lp.mode64 && (!lp.ss.ar.unusable && !lp.ss.ar.b)) gp0

/-- The EPCM checks on the TCS page (R130 to R133). -/
def checkTcsEpcm (e : EpcmEntry) (la : LinAddr) : Except Fault Unit := do
  raiseIf (!e.valid) (sgxPageFault .tcsNotValid la)
  raiseIf e.blocked (sgxPageFault .tcsBlocked la)
  raiseIf (e.enclaveAddress != la || e.pt != .ptTcs) (sgxPageFault .tcsNotThisTcs la)
  raiseIf (e.pending || e.modified) (sgxPageFault .tcsUnsettled la)

/-- The TCS address, the AEP and the TCS page (R126 to R133): the physical address of the TCS. The TCS is translated for
read/write (D24). -/
def checkTcsPage (s : State) : Except Fault PhysAddr := do
  let la := tcsLinear s.lp
  raiseIf (!aligned4K la) gp0
  let pa ← translate s la .readWrite
  raiseIf (!inEpc s.platform pa) (sgxPageFault .tcsNotInEpc la)
  raiseIf (s.lp.mode64 && !canonical s.platform.laWidth (aepLinear s.lp)) gp0
  raiseIf (tcsBusy s pa) gp0
  checkTcsEpcm (epcmAt s pa) la
  return pa

/-- Whether a proposed FS or GS segment is not inside DS: a wrapping one needs a DS that spans the whole 4 GBytes (R139, R140, D7). -/
def outsideDs (base limit : LinAddr) (dsLimit : BitVec 32) : Bool :=
  if limit < base then dsLimit != 0xFFFFFFFF else decide (limit > dsLimit.setWidth 64)

/-- The proposed FS and GS segments (R138 to R141). -/
def checkFsGs (s : State) (pa : PhysAddr) : Except Fault Unit :=
  if s.lp.mode64 then
    raiseIf (!canonical s.platform.laWidth (tmpFsBase s pa) || !canonical s.platform.laWidth (tmpGsBase s pa)) gp0
  else do
    raiseIf (outsideDs (tmpFsBase s pa) (tmpFsLimit s pa) s.lp.ds.limit) gp0
    raiseIf (outsideDs (tmpGsBase s pa) (tmpGsLimit s pa) s.lp.ds.limit) gp0

/-- `SECS.ATTRIBUTES.XFRM` is not legal: with CR4.OSXSAVE = 0 it must be 3 (R146), else a subset of XCR0 (R147). -/
def illegalXfrm (lp : LogicalProcessor) (xfrm : Word) : Bool :=
  if lp.osxsave then xfrm &&& lp.xcr0 != xfrm else xfrm != Config.legacyXfrm

/-- The TCS fields, the SECS, FS and GS, the attributes and the free SSA frame (R134 to R148). -/
def checkTcsFields (s : State) (pa : PhysAddr) : Except Fault Unit := do
  raiseIf (!aligned4K (tcsAt s pa).ossa) gp0
  raiseIf (!aligned4K (tcsAt s pa).ofsbase || !aligned4K (tcsAt s pa).ogsbase) gp0
  raiseIf (secsInUse s (tmpSecs s pa)) gp0
  checkFsGs s pa
  raiseIf ((tcsAt s pa).flags &&& Config.tcsFlagsReserved != 0) gp0
  raiseIf (!(secsAt s pa).init) gp0
  raiseIf (s.lp.mode64 != (secsAt s pa).mode64bit) gp0
  raiseIf (!s.lp.osfxsr) gp0
  raiseIf (illegalXfrm s.lp (secsAt s pa).xfrm) gp0
  raiseIf (decide ((tcsAt s pa).cssa ≥ (tcsAt s pa).nssa)) gp0

/-- An enclave page at the linear address `A` that EENTER must be able to read and write, of the enclave `secs`: its physical address
(R152, R153 for an XSAVE page, R156 for the GPR area). -/
def checkEnclavePage (s : State) (secs : PhysAddr) (cause : Config.PfCause) (a : LinAddr) : Except Fault PhysAddr := do
  let pa ← translate s a .readWrite
  raiseIf (!inEpc s.platform pa) (sgxPageFault cause a)
  let e := epcmAt s pa
  raiseIf (!e.valid) (sgxPageFault cause a)
  raiseIf e.blocked (sgxPageFault cause a)
  raiseIf (e.pending || e.modified) (sgxPageFault cause a)
  raiseIf (e.enclaveAddress != pageBase a || e.pt != .ptReg || e.enclaveSecs != secs || !e.r || !e.w) (sgxPageFault cause a)
  return pa

/-- `count` iterations of the loop over the XSAVE pages from number `n` on: the values for `CR_XSAVE_PAGE_n` (R151 to R154). -/
def checkXsavePages (s : State) (pa : PhysAddr) : Nat → Nat → Except Fault (List PhysAddr)
  | _, 0 => .ok []
  | n, count + 1 => do
    let page ← checkEnclavePage s (tmpSecs s pa) .xsavePage (tmpSsaPage s pa n)
    let rest ← checkXsavePages s pa (n + 1) count
    return page :: rest

/-- The GPR area (R155 to R158): its physical address. -/
def checkGprArea (s : State) (pa : PhysAddr) : Except Fault PhysAddr := do
  let gprPa ← checkEnclavePage s (tmpSecs s pa) .gprArea (tmpGpr s pa)
  raiseIf (!s.lp.mode64 && decide (gprEnd s pa > s.lp.ds.limit.setWidth 64)) gp0
  return gprPa

/-- `TMP_TARGET` is no legal target: not canonical in 64-bit mode, beyond the CS limit otherwise (R159). -/
def badTarget (s : State) (target : LinAddr) : Bool :=
  if s.lp.mode64 then !canonical s.platform.laWidth target else decide (target > s.lp.cs.limit.setWidth 64)

/-- The entry point and the state of the TCS (R159, R160). Every STATE other than INACTIVE counts as ACTIVE (C14, U5). -/
def checkEntryPoint (s : State) (pa : PhysAddr) : Except Fault Unit := do
  raiseIf (badTarget s (tmpTarget s pa)) gp0
  raiseIf ((tcsAt s pa).state != Config.tcsInactive) gp0

/-- What the check phase hands to the commit phase: the physical addresses it obtained (R127, R154, R158). -/
structure Entry where
  tcsPa : PhysAddr
  xsavePages : List PhysAddr
  gprPa : PhysAddr
  deriving DecidableEq, Repr

/-- The check phase, in the order of R116. It changes nothing (R161). -/
def checkPhase (s : State) : Except Fault Entry := do
  checkEnclu s.lp
  checkSegments s.lp
  let pa ← checkTcsPage s
  checkTcsFields s pa
  let xsavePages ← checkXsavePages s pa 0 (xsavePageCount s.platform.ssaLoopInclusive (tmpXsize s pa))
  let gprPa ← checkGprArea s pa
  checkEntryPoint s pa
  return { tcsPa := pa, xsavePages := xsavePages, gprPa := gprPa }

/-! ## The commit phase: the assignments are independent (R170), each new value is a function of the state before -/

/-- `TCS.FLAGS.DBGOPTIN` (R193): an opt-in entry when it is 1, an opt-out entry when it is 0. -/
def optIn (s : State) (e : Entry) : Bool := dbgOptInBit (tcsAt s e.tcsPa).flags

/-- The four stores (R75): TCS.STATE (R184, D14), TCS.AEP (R174), U_RSP and U_RBP in the GPR area (R181, D13). -/
def memAfter (s : State) (e : Entry) : Memory :=
  let m := Memory.writeField s.mem e.tcsPa s.platform.tcsLayout.state Config.tcsActive
  let m := Memory.writeField m e.tcsPa s.platform.tcsLayout.aep (truncXlen s.lp.mode64 s.lp.gpr.rcx)
  let m := Memory.writeField m e.gprPa s.platform.gprsgxLayout.uRspField (truncXlen s.lp.mode64 s.lp.gpr.rsp)
  Memory.writeField m e.gprPa s.platform.gprsgxLayout.uRbpField (truncXlen s.lp.mode64 s.lp.gpr.rbp)

/-- RCX gets the address of the next instruction (R178) and RAX the CSSA (R180). -/
def gprAfter (s : State) (e : Entry) : Gprs :=
  { s.lp.gpr with rcx := nextRip s, rax := (tcsAt s e.tcsPa).cssa }

/-- XCR0 is replaced when CR4.OSXSAVE = 1 (R177). -/
def xcr0After (s : State) (e : Entry) : Word := if s.lp.osxsave then (secsAt s e.tcsPa).xfrm else s.lp.xcr0

/-- FS or GS rebuilt from DS, a base and a limit (R182, R183). -/
def swappedSegment (ds : Segment) (base : LinAddr) (limit : BitVec 32) : Segment :=
  { selector := Config.swapSelector, base := base, limit := limit
    ar := { type := typeWithW Config.swapType ds.ar.w, s := true, dpl := ds.ar.dpl, g := true, b := true, p := true
            avl := ds.ar.avl, l := ds.ar.l, unusable := false } }

/-- FS after the entry (R182). -/
def fsAfter (s : State) (e : Entry) : Segment :=
  swappedSegment s.lp.ds (tmpFsBase s e.tcsPa) (tcsAt s e.tcsPa).fslimit

/-- GS after the entry (R183). -/
def gsAfter (s : State) (e : Entry) : Segment :=
  swappedSegment s.lp.ds (tmpGsBase s e.tcsPa) (tcsAt s e.tcsPa).gslimit

/-- The new `CR_XSAVE_PAGE_n`; those beyond the last page visited keep their values (R44, R154). -/
def xsavePagesAfter (old new : List PhysAddr) : List PhysAddr := new ++ old.drop new.length

/-- The `CR_` registers (R154, R158, R171 to R173, R175 to R177, R193, R195 (b)); those not written keep their values (R44). -/
def crAfter (s : State) (e : Entry) : CrRegs :=
  { enclaveMode := true
    activeSecs := tmpSecs s e.tcsPa
    elrangeBase := (secsAt s e.tcsPa).baseaddr
    elrangeSize := (secsAt s e.tcsPa).size
    tcsPa := e.tcsPa
    tcsLa := truncXlen s.lp.mode64 s.lp.gpr.rbx
    saveFs := s.lp.fs
    saveGs := s.lp.gs
    saveXcr0 := if s.lp.osxsave then s.lp.xcr0 else s.lp.cr.saveXcr0
    xsavePages := xsavePagesAfter s.lp.cr.xsavePages e.xsavePages
    gprPa := e.gprPa
    dbgOptIn := optIn s e
    saveTf := if optIn s e then s.lp.cr.saveTf else s.lp.tf }

/-- The suppression of breakpoints and of the monitor trap flag (R194, R195 (a), (d), C10). -/
def dbgAfter (s : State) (e : Entry) : DebugState :=
  if optIn s e then { s.lp.dbg with suppressCodeBpOutsideElrange := true }
  else { suppressCodeBpOutsideElrange := true, suppressCodeBpInElrange := true, suppressDataBpInElrange := true
         mtfSuppressed := true }

/-- Add a pending debug exception to a set of them (R196). -/
def addDebugEvent (events : List DebugEvent) (ev : DebugEvent) : List DebugEvent :=
  if ev ∈ events then events else events ++ [ev]

/-- The pending events: discarded on an opt-out entry (R195 (e), (f)), kept and added to on an opt-in entry (R196, R197). The
instruction boundary is reached (R199). -/
def pendAfter (s : State) (e : Entry) : PendingState :=
  if optIn s e then
    { debugExceptions :=
        if s.lp.tf then addDebugEvent s.lp.pend.debugExceptions .singleStep else s.lp.pend.debugExceptions
      mtfVmExit := s.lp.pend.mtfVmExit || s.lp.mtfControl
      boundary := true }
  else { debugExceptions := [], mtfVmExit := false, boundary := true }

/-- The suppression of performance monitoring on an opt-out entry (R202 to R204). -/
def pmuAfter (s : State) (e : Entry) : PmuState :=
  if optIn s e then s.lp.pmu else { s.lp.pmu with suppressed := true, pebsSuppressed := true }

/-- IA32_PERF_GLOBAL_STATUS of the executing thread: bits 60 and 63 each unchanged or 1 after an opt-out entry (R206, D28, U9, log 8). -/
def perfGlobalStatusAfter (s : State) (e : Entry) : Word :=
  if optIn s e then s.lp.perfGlobalStatus
  else setStatusBit (setStatusBit s.lp.perfGlobalStatus 60 (Config.freeBit s.freeNext)) 63 (Config.freeBit (s.freeNext + 1))

/-- The executing logical processor after the entry. The linear context is flushed (R93, R198). The answer of ENCLU_PRECHECK is kept, although
the predicate is one of the whole state (R118, D6): the model's choice, log 5. -/
def lpAfter (s : State) (e : Entry) : LogicalProcessor :=
  { s.lp with
    gpr := gprAfter s e
    rip := tmpTarget s e.tcsPa
    rflags := rflagsAfterEntry s.lp.rflags (optIn s e)
    xcr0 := xcr0After s e
    perfGlobalStatus := perfGlobalStatusAfter s e
    fs := fsAfter s e
    gs := gsAfter s e
    dbg := dbgAfter s e
    pmu := pmuAfter s e
    pend := pendAfter s e
    linearContext := []
    cr := crAfter s e }

/-- A sibling that counts in AnyThread mode is demoted to MyThread mode, with bit 60 of its IA32_PERF_GLOBAL_STATUS set (R205). One that an
earlier entry demoted still has its counter configured so, and is demoted, with bit 60 set, again: the model's choice, log 25. -/
def demoteAnyThread (p : Platform) (id : Nat) (t : LogicalProcessor) : LogicalProcessor :=
  if isSibling p id t.id && t.pmu.anyThreadCounting then
    { t with pmu := { t.pmu with anyThreadDemoted := true }, perfGlobalStatus := setStatusBit t.perfGlobalStatus 60 true }
  else t

/-- The other logical processors after the entry: only R205 reaches them, on an opt-out entry (R202, R253). -/
def othersAfter (s : State) (e : Entry) : List LogicalProcessor :=
  if optIn s e then s.others else s.others.map (demoteAnyThread s.platform s.lp.id)

/-- The commit phase (R170): no rule of it can fault (R75). -/
def commit (s : State) (e : Entry) : State :=
  { s with
    lp := lpAfter s e
    others := othersAfter s e
    mem := memAfter s e
    freeNext := if optIn s e then s.freeNext else s.freeNext + 2 }

/-! ## The meaning -/

/-- ENCLU executed with the leaf number in EAX. With EAX = 02H it is EENTER (R100, R116); every other leaf is refused by name
(R105, D35). -/
def execEncluEenter (s : State) : Host.Outcome State Fault Refusal :=
  if s.lp.eax = Config.eenterLeaf then
    match checkPhase s with
    | .ok e => .next (commit s e)
    | .error f => takeFault f
  else .refused (.encluLeafNotSpecified s.lp.eax)

end Sys2Proof.Machine
end

