-- ==== Sys2Proof/Machine/Dispatch.lean ====
section
/-! DEFINITION. The meaning of each instruction, one arm per constructor. -/

namespace Sys2Proof.Machine

/-- The outcome of an instruction in a state: the meaning of its opcode table row (30_encoding.md R104). -/
def exec (i : Instr) (s : State) : Host.Outcome State Fault Refusal :=
  match i with
  | .encluEenter => Sys2Proof.Machine.execEncluEenter s

end Sys2Proof.Machine
end

