-- ==== Sys2Proof/Machine/Fetch.lean ====
section
/-! DEFINITION. What a step does around the instruction: the delivery of due events, the fetch, and the placing of one instruction
where the step fetches (60_exceptions.md R225, R226; 20_memory.md R70; logs 11, 15, 17). -/

namespace Sys2Proof.Machine

/-! ## Events due at the boundary after an entry -/

/-- The pended #DB, delivered with the address of the next instruction (R225). -/
def dueDebug (lp : LogicalProcessor) : Option Fault :=
  if lp.pend.debugExceptions = [] then none else some (.debugException lp.pend.debugExceptions lp.rip)

/-- The pended MTF VM exit (R226). -/
def dueMtf (lp : LogicalProcessor) : Option Fault := if lp.pend.mtfVmExit then some (.mtfVmExit lp.rip) else none

/-- The event delivered before the next instruction executes, if any: at the boundary after an entry, in the order `PEND_ORDER`
(R196, R197, R199, D36, log 11). -/
def dueEvent (s : State) : Option Fault :=
  if s.lp.pend.boundary then
    match s.platform.pendOrder with
    | .debugFirst => (dueDebug s.lp).or (dueMtf s.lp)
    | .mtfFirst => (dueMtf s.lp).or (dueDebug s.lp)
  else none

/-! ## Fetch -/

/-- The linear address of the `k`-th byte of the next instruction: `LA(CS, RIP + k)` (R70, R71). -/
def fetchLinear (lp : LogicalProcessor) (k : Nat) : LinAddr := linear lp.mode64 lp.cs (lp.rip + BitVec.ofNat 64 k)

/-- `count` instruction bytes from the `k`-th on, each translated for a read; a fault of the translation is raised (R72, log 17). The bytes
are those of shared memory at the step, whoever stored them last, self-modified code included, which R92 leaves open: the model's choice,
log 33. -/
def fetchBytes (s : State) : Nat → Nat → Except Fault (List Byte)
  | _, 0 => .ok []
  | k, count + 1 =>
    match memRead s (fetchLinear s.lp k) 1 with
    | .error f => .error f
    | .ok b =>
      match fetchBytes s (k + 1) count with
      | .error f => .error f
      | .ok rest => .ok (BitVec.ofNat 8 b :: rest)

/-- The `ENCLU_LENGTH` bytes of the next instruction in address order (R76, R110). -/
def fetch (s : State) : Except Fault (List Byte) := fetchBytes s 0 s.platform.encluBytes.length

/-! ## Placing an instruction where the step fetches (log 15) -/

/-- The state with the page of `la` readable: as it is, or mapped to the physical page of the same number. -/
def ensureReadable (s : State) (la : LinAddr) : State :=
  match translate s la .read with
  | .ok _ => s
  | .error _ =>
    { s with platform := { s.platform with
        pageMap := { page := pageNumber la, mapping := mapTo (pageNumber la) } :: s.platform.pageMap } }

/-- Store the bytes from the `k`-th fetched byte on. -/
def placeBytes (s : State) : Nat → List Byte → State
  | _, [] => s
  | k, b :: rest =>
    let s' := ensureReadable s (fetchLinear s.lp k)
    match translate s' (fetchLinear s.lp k) .read with
    | .ok pa => placeBytes { s' with mem := Memory.setByte s'.mem pa.toNat b } (k + 1) rest
    | .error _ => placeBytes s' (k + 1) rest

/-- EAX = 02H, the run-time selector of the opcode table's row (R100), ENCLU encoded as that row gives it (R104), and no event due before
the instruction. -/
def selectEenter (s : State) : State :=
  { s with
    lp := { s.lp with
      gpr := { s.lp.gpr with rax := s.lp.gpr.rax.extractLsb' 32 32 ++ Config.eenterLeaf }
      pend := { s.lp.pend with boundary := false } }
    platform := { s.platform with encluBytes := Config.defaultEncluBytes } }

end Sys2Proof.Machine
end

