-- ==== Sys2Proof/Machine/Step.lean ====
section
/-! DEFINITION. One step of the machine: a due event is delivered, or the next instruction is fetched, decoded and executed. -/

namespace Sys2Proof.Machine

/-- One step (R17). -/
def step (s : State) : Host.Outcome State Fault Refusal :=
  match dueEvent s with
  | some f => takeFault f
  | none =>
    match fetch s with
    | .error f => takeFault f
    | .ok bytes =>
      match decode s.platform.encluBytes bytes with
      | .error reason => .refused (.undecodable reason)
      | .ok (i, _) => finishStep (exec i s)

/-- `s` with one instruction word of the opcode table, numbered as the table numbers it, stored where the step fetches, and with
what its row takes to run: EAX = 02H, ENCLU's bytes the table's, no event due, the page readable (log 15). -/
def State.withFetchWord (s : State) (nbits w : Nat) : State := placeBytes (selectEenter s) 0 (tableBytes nbits w)

end Sys2Proof.Machine
end

