-- ==== Sys2Proof/Machine/Debug.lean ====
section
/-! DEFINITION. What the suppression flags that EENTER sets mean (41_eenter_commit.md R194, R195, R203 to R205). The breakpoints and
the counters themselves are not described by the source (R38, R39, N27); log 27. -/

namespace Sys2Proof.Machine

/-- Some byte of the `len` bytes from `a` on is one of ELRANGE, the bytes BASEADDR to BASEADDR + SIZE - 1 (R46). So an empty ELRANGE (SIZE = 0,
which no check examines, R172) overlaps nothing, and neither range wraps past the top of the address space: the model's choices, log 27. -/
def overlapsElrange (cr : CrRegs) (a : LinAddr) (len : Nat) : Bool :=
  decide (max cr.elrangeBase.toNat a.toNat < min (cr.elrangeBase.toNat + cr.elrangeSize.toNat) (a.toNat + len))

/-- A code breakpoint on `len` bytes from `a` on is suppressed: one that does not overlap ELRANGE by R194, one that does by R195 (a). -/
def codeBreakpointSuppressed (lp : LogicalProcessor) (a : LinAddr) (len : Nat) : Bool :=
  if overlapsElrange lp.cr a len then lp.dbg.suppressCodeBpInElrange else lp.dbg.suppressCodeBpOutsideElrange

/-- A data breakpoint on `len` bytes from `a` on is suppressed: one that overlaps ELRANGE, by R195 (a) (C10). -/
def dataBreakpointSuppressed (lp : LogicalProcessor) (a : LinAddr) (len : Nat) : Bool :=
  overlapsElrange lp.cr a len && lp.dbg.suppressDataBpInElrange

/-- A performance counter: the two that the source names, or any other (R245). -/
inductive Counter where
  | fixedCtr1
  | fixedCtr2
  | other (n : Nat)
  deriving DecidableEq, Repr

/-- The counter neither counts nor raises an overflow event (R203). -/
def counterSuppressed (lp : LogicalProcessor) (c : Counter) : Bool :=
  lp.pmu.suppressed && c != .fixedCtr1 && c != .fixedCtr2

/-- The thread's AnyThread counters count events of other threads: configured so and not demoted to MyThread mode (R205). -/
def countsOtherThreads (lp : LogicalProcessor) : Bool := lp.pmu.anyThreadCounting && !lp.pmu.anyThreadDemoted

end Sys2Proof.Machine
end

