-- ==== Sys2Proof/Safety.lean ====
section
/-! DEFINITION. The terms the claims are made in: when an entry succeeds (70_reset_and_hazards.md R265), what every state a run
passes through keeps, what a layout is, and which bytes an entry stores to. -/

namespace Sys2Proof.Safety

open Sys2Proof.Machine

/-! ## The sixteen conditions of R265, bit by bit in the spec's words -/

/-- `a` is 4KByte aligned (R77). -/
abbrev Aligned4K (a : Word) : Prop := a.toNat % 4096 = 0

/-- Bits 63 down to `laWidth - 1` of `a` are all equal (R73). -/
abbrev CanonicalAddr (laWidth : Nat) (a : Word) : Prop :=
  ∀ i < 64, ∀ j < 64, laWidth - 1 ≤ i → laWidth - 1 ≤ j → a.getLsbD i = a.getLsbD j

/-- Item 1: `ENCLU_PRECHECK` passes and the logical processor is not in enclave mode (R118, R119). -/
abbrev DispatchOk (lp : LogicalProcessor) : Prop := lp.encluPrecheck = none ∧ lp.cr.enclaveMode = false

/-- Item 2: outside 64-bit mode, DS, CS, ES and SS are as R121 to R125 demand, of a base its low 32 bits (R32, log 29). -/
abbrev SegmentsOk (lp : LogicalProcessor) : Prop :=
  lp.mode64 = false →
    lp.ds.ar.unusable = false
    ∧ ¬(lp.ds.ar.s = true ∧ lp.ds.ar.type.getLsbD 3 = false ∧ lp.ds.ar.type.getLsbD 2 = true)
    ∧ lp.cs.base.setWidth 32 = 0#32 ∧ lp.ds.base.setWidth 32 = 0#32
    ∧ (lp.es.ar.unusable = true ∨ lp.es.base.setWidth 32 = 0#32)
    ∧ (lp.ss.ar.unusable = true ∨ (lp.ss.base.setWidth 32 = 0#32 ∧ lp.ss.ar.b = true))

/-- Item 3, first half: RBX is 4KByte aligned (R126). -/
abbrev TcsAligned (s : State) : Prop := Aligned4K (tcsLinear s.lp)

/-- Item 3, second half: RBX translates, read/write, to the page of the EPC at `pa` (R127). -/
abbrev TcsResolves (s : State) (pa : PhysAddr) : Prop :=
  translate s (tcsLinear s.lp) .readWrite = .ok pa ∧ inEpc s.platform pa = true

/-- Item 4: in 64-bit mode the AEP is canonical (R128). -/
abbrev AepOk (s : State) : Prop := s.lp.mode64 = true → CanonicalAddr s.platform.laWidth s.lp.gpr.rcx

/-- `id` names another logical processor of the machine than the executing one (R129, R251). -/
abbrev AnotherProcessor (s : State) (id : Nat) : Prop := id ≠ s.lp.id ∧ ∃ o ∈ s.others, o.id = id

/-- Item 5, first half: no other logical processor's SGX instruction holds the TCS in a mode that conflicts (R129, R209). -/
abbrev TcsFree (s : State) (pa : PhysAddr) : Prop :=
  ∀ l ∈ s.tcsLocks, l.frame = pageNumber pa → l.exclusive = true → ¬AnotherProcessor s l.holder

/-- Item 6: the EPCM entry of the TCS page (R130 to R133). -/
abbrev TcsEntryOk (s : State) (pa : PhysAddr) : Prop :=
  (epcmAt s pa).valid = true ∧ (epcmAt s pa).blocked = false ∧ (epcmAt s pa).pending = false
  ∧ (epcmAt s pa).modified = false ∧ (epcmAt s pa).pt = .ptTcs ∧ (epcmAt s pa).enclaveAddress = tcsLinear s.lp

/-- Items 3 to 6 together: the physical page `pa` is the TCS's and may be read. -/
abbrev TcsPageOk (s : State) (pa : PhysAddr) : Prop :=
  TcsAligned s ∧ TcsResolves s pa ∧ AepOk s ∧ TcsFree s pa ∧ TcsEntryOk s pa

/-- Item 7: OSSA, OFSBASE and OGSBASE are 4KByte aligned (R134, R135). -/
abbrev TcsOffsetsAligned (s : State) (pa : PhysAddr) : Prop :=
  Aligned4K (tcsAt s pa).ossa ∧ Aligned4K (tcsAt s pa).ofsbase ∧ Aligned4K (tcsAt s pa).ogsbase

/-- Item 5, second half: no other logical processor has the SECS in use (R137). -/
abbrev SecsFree (s : State) (pa : PhysAddr) : Prop :=
  ∀ u ∈ s.secsUses, u.secs = tmpSecs s pa → ¬AnotherProcessor s u.holder

/-- A proposed segment lies within DS (R139, R140): one that wraps past the top of the 32-bit space needs a DS that spans it. -/
abbrev InsideDs (base limit : LinAddr) (dsLimit : BitVec 32) : Prop :=
  (limit.toNat < base.toNat → dsLimit.toNat = 2 ^ 32 - 1) ∧ (base.toNat ≤ limit.toNat → limit.toNat ≤ dsLimit.toNat)

/-- Item 8: the proposed FS and GS (R139, R140 outside 64-bit mode, R141 in it). -/
abbrev FsGsOk (s : State) (pa : PhysAddr) : Prop :=
  (s.lp.mode64 = false →
    InsideDs (tmpFsBase s pa) (tmpFsLimit s pa) s.lp.ds.limit ∧ InsideDs (tmpGsBase s pa) (tmpGsLimit s pa) s.lp.ds.limit)
  ∧ (s.lp.mode64 = true →
    CanonicalAddr s.platform.laWidth (tmpFsBase s pa) ∧ CanonicalAddr s.platform.laWidth (tmpGsBase s pa))

/-- Item 9: TCS.FLAGS[63:1] = 0 (R142). -/
abbrev FlagsOk (s : State) (pa : PhysAddr) : Prop := ∀ i < 64, 1 ≤ i → (tcsAt s pa).flags.getLsbD i = false

/-- Item 10: the enclave is initialised and of the logical processor's mode (R143, R144). -/
abbrev EnclaveOk (s : State) (pa : PhysAddr) : Prop :=
  (secsAt s pa).init = true ∧ (secsAt s pa).mode64bit = s.lp.mode64

/-- Item 11: CR4.OSFXSR, and XFRM against CR4.OSXSAVE and XCR0 (R145, R146, R147). -/
abbrev XfrmOk (s : State) (pa : PhysAddr) : Prop :=
  s.lp.osfxsr = true
  ∧ (s.lp.osxsave = false → (secsAt s pa).xfrm = 3)
  ∧ (s.lp.osxsave = true → ∀ i < 64, (secsAt s pa).xfrm.getLsbD i = true → s.lp.xcr0.getLsbD i = true)

/-- Item 12: a free SSA frame (R148). -/
abbrev FrameFree (s : State) (pa : PhysAddr) : Prop := (tcsAt s pa).cssa.toNat < (tcsAt s pa).nssa.toNat

/-- Items 7 to 12 and the second half of 5 together: what the checks R134 to R148 demand. -/
abbrev TcsFieldsOk (s : State) (pa : PhysAddr) : Prop :=
  TcsOffsetsAligned s pa ∧ SecsFree s pa ∧ FsGsOk s pa ∧ FlagsOk s pa ∧ EnclaveOk s pa ∧ XfrmOk s pa ∧ FrameFree s pa

/-- A page of the current SSA frame as item 13 demands it: `a` translates to `p`, in an EPC page whose EPCM entry allows it (R152,
R153, R156). -/
abbrev EnclavePageOk (s : State) (secs : PhysAddr) (a : LinAddr) (p : PhysAddr) : Prop :=
  translate s a .readWrite = .ok p ∧ inEpc s.platform p = true
  ∧ (epcmAt s p).valid = true ∧ (epcmAt s p).blocked = false ∧ (epcmAt s p).pending = false ∧ (epcmAt s p).modified = false
  ∧ (epcmAt s p).pt = .ptReg ∧ (epcmAt s p).r = true ∧ (epcmAt s p).w = true
  ∧ (epcmAt s p).enclaveAddress.toNat = a.toNat / 4096 * 4096 ∧ (epcmAt s p).enclaveSecs = secs

/-- The number of XSAVE pages of the current SSA frame (R151). -/
def ssaPages (s : State) (pa : PhysAddr) : Nat := xsavePageCount s.platform.ssaLoopInclusive (tmpXsize s pa)

/-- Item 13, first half: every page of the XSAVE area (R151 to R153). -/
def XsavePagesOk (s : State) (pa : PhysAddr) : Prop :=
  ∀ n < ssaPages s pa, ∃ p, EnclavePageOk s (tmpSecs s pa) (tmpSsaPage s pa n) p

/-- Items 13, second half, and 14: the GPR area is at the physical address `g` (R156), and within DS outside 64-bit mode (R157). -/
abbrev GprAreaOk (s : State) (pa g : PhysAddr) : Prop :=
  EnclavePageOk s (tmpSecs s pa) (tmpGpr s pa) g
  ∧ (s.lp.mode64 = false → (gprEnd s pa).toNat ≤ s.lp.ds.limit.toNat)

/-- Item 15: the target (R159). -/
abbrev TargetOk (s : State) (pa : PhysAddr) : Prop :=
  (s.lp.mode64 = true → CanonicalAddr s.platform.laWidth (tmpTarget s pa))
  ∧ (s.lp.mode64 = false → (tmpTarget s pa).toNat ≤ s.lp.cs.limit.toNat)

/-- Item 16: TCS.STATE is INACTIVE (R160, C14). -/
abbrev TcsInactive (s : State) (pa : PhysAddr) : Prop := (tcsAt s pa).state = 0

/-- Items 1 to 15, with EAX = 02H: all that R265 demands but the state of the TCS. `pa` is the physical address of the TCS and `g` that
of the GPR area. -/
structure EnterableUpToState (s : State) (pa g : PhysAddr) : Prop where
  leaf : s.lp.eax = 2
  dispatch : DispatchOk s.lp
  segments : SegmentsOk s.lp
  page : TcsPageOk s pa
  fields : TcsFieldsOk s pa
  xsave : XsavePagesOk s pa
  gpr : GprAreaOk s pa g
  target : TargetOk s pa

/-- All sixteen conditions of R265, with EAX = 02H. -/
structure Enterable (s : State) (pa g : PhysAddr) : Prop extends EnterableUpToState s pa g where
  inactive : TcsInactive s pa

/-! ## Layouts (R7, D10 to D13) -/

/-- A field lies in its page and is read whole. -/
abbrev FieldOk (f : Config.Field) : Prop := f.bytes ≤ 8 ∧ f.offset + f.bytes ≤ 4096

/-- Two fields of one structure share no byte. -/
abbrev Apart (f g : Config.Field) : Prop := f.offset + f.bytes ≤ g.offset ∨ g.offset + g.bytes ≤ f.offset

/-- The TCS fields that EENTER reads and does not write (R185). -/
def keptFields (l : Config.TcsLayout) : List Config.Field :=
  [l.flags, l.ossa, l.cssa, l.nssa, l.oentry, l.ofsbase, l.ogsbase, l.fslimit, l.gslimit]

/-- The SECS fields that EENTER reads. -/
def secsFields (l : Config.SecsLayout) : List Config.Field := [l.size, l.baseaddr, l.ssaframesize, l.attributes, l.xfrm]

/-- The fields lie in their page, those that EENTER writes share no byte with any other, STATE can hold ACTIVE and AEP an address. -/
abbrev TcsLayoutOk (l : Config.TcsLayout) : Prop :=
  (FieldOk l.state ∧ 1 ≤ l.state.bytes) ∧ (FieldOk l.aep ∧ l.aep.bytes = 8) ∧ Apart l.state l.aep
  ∧ ∀ f ∈ keptFields l, FieldOk f ∧ Apart l.state f ∧ Apart l.aep f

/-- U_RSP and U_RBP are two places in a GPR area of at most a page. -/
abbrev GprsgxLayoutOk (size : Nat) (l : Config.GprsgxLayout) : Prop :=
  size ≤ 4096 ∧ l.uRsp + 8 ≤ size ∧ l.uRbp + 8 ≤ size ∧ (l.uRsp + 8 ≤ l.uRbp ∨ l.uRbp + 8 ≤ l.uRsp)

/-- The layouts are layouts: what R52, R54 and R55 say of those structures whatever the offsets are (log 13). The spec's
defaults meet it. Natural alignment of the fields is not asked for (R78, log 34). -/
abbrev LayoutOk (p : Platform) : Prop :=
  TcsLayoutOk p.tcsLayout ∧ (∀ f ∈ secsFields p.secsLayout, FieldOk f) ∧ GprsgxLayoutOk p.gprsgxSize p.gprsgxLayout

/-! ## Stores -/

/-- The physical address `a` is a byte of the field `f` of the structure at `pa`. -/
def StoredAt (pa : PhysAddr) (f : Config.Field) (a : Nat) : Prop := ∃ i < f.bytes, a = (fieldAt pa f.offset + BitVec.ofNat 64 i).toNat

/-- The bytes that an entry stores to (R75): TCS.STATE, TCS.AEP, U_RSP and U_RBP. -/
def EntryStores (p : Platform) (pa g : PhysAddr) (a : Nat) : Prop :=
  StoredAt pa p.tcsLayout.state a ∨ StoredAt pa p.tcsLayout.aep a
  ∨ StoredAt g p.gprsgxLayout.uRspField a ∨ StoredAt g p.gprsgxLayout.uRbpField a

/-- SECS.BASEADDR is 4KByte aligned, as enclave creation guarantees (D32). -/
abbrev BaseAligned (s : State) (pa : PhysAddr) : Prop := Aligned4K (secsAt s pa).baseaddr

/-! ## ELRANGE -/

/-- Some byte of the `len` bytes from `a` on is one of the bytes `base` to `base + size - 1` (R46), no sum wrapping (log 27). -/
abbrev OverlapsRange (base size a : Word) (len : Nat) : Prop :=
  ∃ b : Nat, (a.toNat ≤ b ∧ b < a.toNat + len) ∧ base.toNat ≤ b ∧ b < base.toNat + size.toNat

/-! ## Invariants -/

/-- The logical processors of the machine. -/
def processors (s : State) : List LogicalProcessor := s.lp :: s.others

/-- A segment register as an entry rebuilds FS and GS, but for what it takes from DS and from the TCS: selector 0BH, type 0, 0, W, 1, and
S, G, B, P set, usable (R182, R183; W is bit 1 of the type, GK8, log 24). -/
structure Rebuilt (seg : Segment) : Prop where
  selector : seg.selector = 0x0B
  type : seg.ar.type.getLsbD 3 = false ∧ seg.ar.type.getLsbD 2 = false ∧ seg.ar.type.getLsbD 0 = true
  flags : seg.ar.s = true ∧ seg.ar.g = true ∧ seg.ar.b = true ∧ seg.ar.p = true
  usable : seg.ar.unusable = false

/-- What EENTER arranges for enclave mode (R241): the linear context is flushed (R198), FS and GS are as an entry rebuilds them (R182,
R183), the code breakpoints outside ELRANGE are suppressed (R194), XCR0 is a subset of the saved one (R177), and after an opt-out entry TF
is clear, the breakpoints in ELRANGE, data breakpoints among them, and the monitor trap flag are suppressed, and performance monitoring
and PEBS are (R195, R203, R204; C10, D28, log 27). -/
structure EnclaveModeSetUp (lp : LogicalProcessor) : Prop where
  flushed : lp.linearContext = []
  fs : Rebuilt lp.fs
  gs : Rebuilt lp.gs
  codeBpOutside : lp.dbg.suppressCodeBpOutsideElrange = true
  xcr0 : lp.osxsave = true → lp.xcr0 &&& lp.cr.saveXcr0 = lp.xcr0
  optOut : lp.cr.dbgOptIn = false →
    lp.tf = false ∧ lp.dbg.suppressCodeBpInElrange = true ∧ lp.dbg.suppressDataBpInElrange = true
    ∧ lp.dbg.mtfSuppressed = true ∧ lp.pmu.suppressed = true ∧ lp.pmu.pebsSuppressed = true

/-- Every logical processor in enclave mode is set up for it. -/
def EnclaveModeInv (s : State) : Prop := ∀ l ∈ processors s, l.cr.enclaveMode = true → EnclaveModeSetUp l

/-- The logical processor's TCS is a page of type PT_TCS, page aligned, and not INACTIVE (R47, R160, R184). -/
structure HoldsTcs (s : State) (l : LogicalProcessor) : Prop where
  aligned : Aligned4K l.cr.tcsPa
  page : (epcmAt s l.cr.tcsPa).pt = .ptTcs
  active : (tcsAt s l.cr.tcsPa).state ≠ 0

/-- Every PT_TCS page names, page aligned, the PT_SECS page of an enclave whose BASEADDR is page aligned (D25, D32): what enclave creation
guarantees. -/
def EnclavesBuilt (s : State) : Prop :=
  ∀ p : PhysAddr, (epcmAt s p).pt = .ptTcs →
    Aligned4K (tmpSecs s p) ∧ (epcmAt s (tmpSecs s p)).pt = .ptSecs ∧ BaseAligned s p

/-- One TCS serves one logical processor at a time (R269 (a)): every logical processor in enclave mode holds its TCS ACTIVE, and no two
of them the same. -/
structure TcsExclusive (s : State) : Prop where
  wf : Memory.wf s.mem = true
  layout : LayoutOk s.platform
  built : EnclavesBuilt s
  held : ∀ l ∈ processors s, l.cr.enclaveMode = true → HoldsTcs s l
  distinct : (processors s).Pairwise fun a b =>
    a.cr.enclaveMode = true → b.cr.enclaveMode = true → a.cr.tcsPa ≠ b.cr.tcsPa

end Sys2Proof.Safety
end

