-- ==== Sys2Proof/Certificates/Slice0/Obligations.lean ====
section
/-! DEFINITION. The statements for the provers, each from the numbered rules of spec/. `pa` is the physical address of the TCS page, `g` that
of the GPR area. The conditions a statement names (`DispatchOk`, `SegmentsOk`, ...) are those of Safety.lean, numbered as R265 numbers them;
they read a segment base at 32 bits outside 64-bit mode (log 29), the holders of locks as log 6 says, and the TCS at `pa` (log 30). -/

open Sys2Proof Sys2Proof.Machine Sys2Proof.Safety

/-! ## Encoding (30_encoding.md) -/

/-- The bits `00001111 00000001 11010111`, in address order, are ENCLU on a machine with the spec's default for `ENCLU_BYTES`, as the state
after reset has it (R101, R104; log 13). -/
def Obligations.EncluBytesDecode : Prop :=
  ∀ rest : List Byte,
    decode State.reset.platform.encluBytes ((0b00001111 : Byte) :: (0b00000001 : Byte) :: (0b11010111 : Byte) :: rest)
      = .ok (.encluEenter, rest)

/-- Decoding the encoding of an instruction gives it back, and the bytes after it, whatever `ENCLU_BYTES` are (R101, R104, R110, D27). -/
def Obligations.DecodeInvertsEncode : Prop :=
  ∀ (enclu : List Byte) (i : Instr) (rest : List Byte),
    i.wellFormed = true → decode enclu (encode enclu i ++ rest) = .ok (i, rest)

/-- Bytes that decode are the encoding of what they decode to, so no prefixed and no other form is admitted, whatever `ENCLU_BYTES` are
(R107, D27). -/
def Obligations.DecodedBytesAreEncoded : Prop :=
  ∀ (enclu bytes rest : List Byte) (i : Instr), decode enclu bytes = .ok (i, rest) → bytes = encode enclu i ++ rest

/-- Of the words of the opcode table's width, exactly the one that meets its row's match under its mask is an instruction, and it is
`0F01D7H` (R101, R104; the table's bytes are the default, log 13). -/
def Obligations.TableWordIsEncluExactly : Prop :=
  ∀ w < 2 ^ 24, (decodeTableWord 24 w = some .encluEenter ↔ w = 0x0F01D7)
    ∧ (decodeTableWord 24 w = some .encluEenter ↔ wellFormedWord (BitVec.ofNat 24 w) = true)

/-! ## The step -/

/-- When no event is due and the bytes at the instruction pointer decode to `i`, the step is `exec i` at that state; after a next state the
logical processor that the order names takes the executing one's place, the two changing places; with no number left in the order, or one
that names none of the others, the executing one goes on (the model's own field, log 12). -/
def Obligations.StepRunsDecodedInstruction : Prop :=
  ∀ (s : State) (bytes rest : List Byte) (i : Instr),
    dueEvent s = none → fetch s = .ok bytes → decode s.platform.encluBytes bytes = .ok (i, rest) →
      (∀ t, exec i s = .next t → step s = .next (advance t)
        ∧ (t.order = [] → advance t = t)
        ∧ ∀ n rest, t.order = n :: rest →
            (t.others[n]? = none → advance t = { t with order := rest })
            ∧ ∀ o, t.others[n]? = some o → advance t = { t with lp := o, others := t.others.set n t.lp, order := rest })
      ∧ (∀ f, exec i s = .fault f → step s = .fault f)
      ∧ (∀ r, exec i s = .refused r → step s = .refused r)

/-- The fetch reads `ENCLU_LENGTH` bytes, the k-th at `LA(CS, RIP + k)` translated for a read (R70, R71, R72, R110; log 17). It faults exactly
when the translation of one of them does, with the fault of the first that does, and the step, when no event is due, then raises that fault:
the model's choice (log 17), as is that the bytes are those of shared memory at the step, whoever stored them (R92, log 33). -/
def Obligations.FetchReadsBytesAtRip : Prop :=
  ∀ s : State,
    (∀ bytes : List Byte, fetch s = .ok bytes ↔
      bytes.length = s.platform.encluBytes.length
      ∧ ∀ (k : Nat) (b : Byte), bytes[k]? = some b →
          ∃ pa, translate s (linear s.lp.mode64 s.lp.cs (s.lp.rip + BitVec.ofNat 64 k)) .read = .ok pa
            ∧ b = Memory.byte s.mem pa.toNat)
    ∧ (∀ f, fetch s = .error f ↔
      ∃ k < s.platform.encluBytes.length,
        (∀ j < k, ∃ pa, translate s (linear s.lp.mode64 s.lp.cs (s.lp.rip + BitVec.ofNat 64 j)) .read = .ok pa)
        ∧ translate s (linear s.lp.mode64 s.lp.cs (s.lp.rip + BitVec.ofNat 64 k)) .read = .error f)
    ∧ (∀ f, dueEvent s = none → fetch s = .error f → step s = .fault f)

/-- Bytes that are no bare ENCLU are refused by name (R107, D27), after no event was due. -/
def Obligations.UndecodableBytesRefused : Prop :=
  ∀ (s : State) (bytes : List Byte) (reason : DecodeError),
    dueEvent s = none → fetch s = .ok bytes → decode s.platform.encluBytes bytes = .error reason → step s = .refused (.undecodable reason)

/-- The model's choice (log 15): with the opcode table's word placed by `withFetchWord`, the next step runs ENCLU[EENTER], whatever the
state, with EAX = 02H and the table's bytes as `ENCLU_BYTES`. -/
def Obligations.FetchWordRunsEenter : Prop :=
  ∀ s : State,
    (s.withFetchWord 24 0x0F01D7).lp.eax = 2
    ∧ step (s.withFetchWord 24 0x0F01D7) = finishStep (exec .encluEenter (s.withFetchWord 24 0x0F01D7))

/-- At the boundary after an entry what is pending is delivered before the next instruction: the #DB alone, the MTF VM exit alone, and of
the two the one that `PEND_ORDER` names, for both of its values (R197, R199, R225, R226, D36; log 11). -/
def Obligations.PendedEventsDelivered : Prop :=
  ∀ s : State, s.lp.pend.boundary = true →
    (s.lp.pend.debugExceptions ≠ [] → s.lp.pend.mtfVmExit = false →
      step s = .fault (.debugException s.lp.pend.debugExceptions s.lp.rip))
    ∧ (s.lp.pend.debugExceptions = [] → s.lp.pend.mtfVmExit = true → step s = .fault (.mtfVmExit s.lp.rip))
    ∧ (s.lp.pend.debugExceptions ≠ [] → s.lp.pend.mtfVmExit = true →
      (s.platform.pendOrder = .debugFirst → step s = .fault (.debugException s.lp.pend.debugExceptions s.lp.rip))
      ∧ (s.platform.pendOrder = .mtfFirst → step s = .fault (.mtfVmExit s.lp.rip)))

/-! ## The checks, each after those before it in the order of R116 -/

/-- ENCLU with EAX other than 02H is refused by name, and nothing else makes the instruction refuse (R105, D35). -/
def Obligations.OnlyOtherLeavesRefused : Prop :=
  ∀ (s : State) (r : Refusal),
    exec .encluEenter s = .refused r ↔ s.lp.eax ≠ 2 ∧ r = .encluLeafNotSpecified s.lp.eax

/-- What `ENCLU_PRECHECK` returns is raised first (R118), and in enclave mode #GP(0) comes before every check of the Operation (R119, R45,
D5). -/
def Obligations.DispatchFaults : Prop :=
  ∀ s : State, s.lp.eax = 2 →
    (∀ f, s.lp.encluPrecheck = some f → exec .encluEenter s = .fault f)
    ∧ (s.lp.encluPrecheck = none → s.lp.cr.enclaveMode = true → exec .encluEenter s = .fault .generalProtection)

/-- Outside 64-bit mode: an unusable or expand-down DS (R121), a base of CS or DS (R122), of a usable ES (R123), of a usable SS (R124) that is
not 0, and a usable SS with B = 0 (R125) each raise #GP(0). Of a base the low 32 bits count, as R32 calls them the significant ones there:
the model's reading (log 29). DS's bits 11 and 10 are read as bits 3 and 2 of its type (GK8, log 1). -/
def Obligations.SegmentFaults : Prop :=
  ∀ s : State, s.lp.eax = 2 → DispatchOk s.lp → s.lp.mode64 = false →
    (s.lp.ds.ar.unusable = true
      ∨ (s.lp.ds.ar.s = true ∧ s.lp.ds.ar.type.getLsbD 3 = false ∧ s.lp.ds.ar.type.getLsbD 2 = true)
      ∨ s.lp.cs.base.toNat % 2 ^ 32 ≠ 0 ∨ s.lp.ds.base.toNat % 2 ^ 32 ≠ 0
      ∨ (s.lp.es.ar.unusable = false ∧ s.lp.es.base.toNat % 2 ^ 32 ≠ 0)
      ∨ (s.lp.ss.ar.unusable = false ∧ s.lp.ss.base.toNat % 2 ^ 32 ≠ 0)
      ∨ (s.lp.ss.ar.unusable = false ∧ s.lp.ss.ar.b = false)) →
    exec .encluEenter s = .fault .generalProtection

/-- A TCS address whose low 12 bits are not zero raises #GP(0), whatever it translates to (R126, R162 (a)). -/
def Obligations.MisalignedTcsFaults : Prop :=
  ∀ s : State, s.lp.eax = 2 → DispatchOk s.lp → SegmentsOk s.lp →
    (tcsLinear s.lp).toNat % 4096 ≠ 0 → exec .encluEenter s = .fault .generalProtection

/-- A fault of the TCS's translation is raised unchanged (R127, R224), and a TCS outside the EPC raises #PF at its linear address, whether or
not the AEP is canonical (R127, R162 (b), R223; D24, D20). -/
def Obligations.UnresolvedTcsFaults : Prop :=
  ∀ s : State, s.lp.eax = 2 → DispatchOk s.lp → SegmentsOk s.lp → TcsAligned s →
    (∀ f, translate s (tcsLinear s.lp) .readWrite = .error f → exec .encluEenter s = .fault f)
    ∧ (∀ pa, translate s (tcsLinear s.lp) .readWrite = .ok pa → inEpc s.platform pa = false →
        exec .encluEenter s = .fault (.pageFault (Config.pfErrorCode .tcsNotInEpc .readWrite) (tcsLinear s.lp)))

/-- In 64-bit mode an AEP that is not canonical raises #GP(0) (R128), and in both modes a TCS that another logical processor of the machine
holds exclusively does (R129, R251, D15). -/
def Obligations.AepAndBusyTcsFault : Prop :=
  ∀ (s : State) (pa : PhysAddr), s.lp.eax = 2 → DispatchOk s.lp → SegmentsOk s.lp → TcsAligned s → TcsResolves s pa →
    (s.lp.mode64 = true → ¬CanonicalAddr s.platform.laWidth s.lp.gpr.rcx → exec .encluEenter s = .fault .generalProtection)
    ∧ (AepOk s → (∃ l ∈ s.tcsLocks, l.frame = pageNumber pa ∧ l.exclusive = true ∧ l.holder ≠ s.lp.id ∧ ∃ o ∈ s.others, o.id = l.holder) →
        exec .encluEenter s = .fault .generalProtection)

/-- The EPCM entry of the TCS page, in the order of the checks: VALID = 0 (R130), BLOCKED = 1 (R131), another ENCLAVEADDRESS or page type
(R132), PENDING = 1 or MODIFIED = 1 (R133) each raise #PF at the linear address of the TCS, with `PF_ERROR_CODE` of that row of R223 and of
a read/write access (D20, a free value, log 7). -/
def Obligations.TcsEpcmFaults : Prop :=
  ∀ (s : State) (pa : PhysAddr), s.lp.eax = 2 → DispatchOk s.lp → SegmentsOk s.lp → TcsAligned s → TcsResolves s pa →
    AepOk s → TcsFree s pa →
    ((epcmAt s pa).valid = false →
      exec .encluEenter s = .fault (.pageFault (Config.pfErrorCode .tcsNotValid .readWrite) (tcsLinear s.lp)))
    ∧ ((epcmAt s pa).valid = true → (epcmAt s pa).blocked = true →
      exec .encluEenter s = .fault (.pageFault (Config.pfErrorCode .tcsBlocked .readWrite) (tcsLinear s.lp)))
    ∧ ((epcmAt s pa).valid = true → (epcmAt s pa).blocked = false →
      ((epcmAt s pa).enclaveAddress ≠ tcsLinear s.lp ∨ (epcmAt s pa).pt ≠ .ptTcs) →
      exec .encluEenter s = .fault (.pageFault (Config.pfErrorCode .tcsNotThisTcs .readWrite) (tcsLinear s.lp)))
    ∧ ((epcmAt s pa).valid = true → (epcmAt s pa).blocked = false → (epcmAt s pa).enclaveAddress = tcsLinear s.lp →
      (epcmAt s pa).pt = .ptTcs → ((epcmAt s pa).pending = true ∨ (epcmAt s pa).modified = true) →
      exec .encluEenter s = .fault (.pageFault (Config.pfErrorCode .tcsUnsettled .readWrite) (tcsLinear s.lp)))

/-- In the TCS: OSSA (R134), OFSBASE or OGSBASE (R135) not 4KByte aligned, a reserved FLAGS bit set (R142), and CSSA >= NSSA (R148) each
raise #GP(0). -/
def Obligations.TcsFieldFaults : Prop :=
  ∀ (s : State) (pa : PhysAddr), s.lp.eax = 2 → DispatchOk s.lp → SegmentsOk s.lp → TcsPageOk s pa →
    ((tcsAt s pa).ossa.toNat % 4096 ≠ 0 ∨ (tcsAt s pa).ofsbase.toNat % 4096 ≠ 0 ∨ (tcsAt s pa).ogsbase.toNat % 4096 ≠ 0
      ∨ (tcsAt s pa).flags &&& 0xFFFFFFFFFFFFFFFE ≠ 0 ∨ (tcsAt s pa).nssa.toNat ≤ (tcsAt s pa).cssa.toNat) →
    exec .encluEenter s = .fault .generalProtection

/-- An enclave that is not initialised (R143) or not of the mode (R144), and a SECS that another logical processor of the machine has in use
(R137, R251, D17), each raise #GP(0). -/
def Obligations.EnclaveStateFaults : Prop :=
  ∀ (s : State) (pa : PhysAddr), s.lp.eax = 2 → DispatchOk s.lp → SegmentsOk s.lp → TcsPageOk s pa →
    ((secsAt s pa).init = false ∨ (secsAt s pa).mode64bit ≠ s.lp.mode64
      ∨ ∃ u ∈ s.secsUses, u.secs = tmpSecs s pa ∧ u.holder ≠ s.lp.id ∧ ∃ o ∈ s.others, o.id = u.holder) →
    exec .encluEenter s = .fault .generalProtection

/-- CR4.OSFXSR = 0 (R145), XFRM other than 3 without CR4.OSXSAVE (R146), and an XFRM that is no subset of XCR0 with it (R147) each raise
#GP(0). -/
def Obligations.XfrmFaults : Prop :=
  ∀ (s : State) (pa : PhysAddr), s.lp.eax = 2 → DispatchOk s.lp → SegmentsOk s.lp → TcsPageOk s pa →
    (s.lp.osfxsr = false
      ∨ (s.lp.osxsave = false ∧ (secsAt s pa).xfrm ≠ 3)
      ∨ (s.lp.osxsave = true ∧ (secsAt s pa).xfrm &&& s.lp.xcr0 ≠ (secsAt s pa).xfrm)) →
    exec .encluEenter s = .fault .generalProtection

/-- Outside 64-bit mode, an FS or GS of which some byte, counted modulo 2^32 from the base to the limit, lies beyond the DS limit raises
#GP(0) (R138, R139, R140; that a wrapping segment needs DS.limit = FFFFFFFFH is D7, log 19; sums at 32 bits are D2, log 23). -/
def Obligations.SegmentOutsideDsFaults : Prop :=
  ∀ (s : State) (pa : PhysAddr), s.lp.eax = 2 → DispatchOk s.lp → SegmentsOk s.lp → TcsPageOk s pa → s.lp.mode64 = false →
    ((∃ off ≤ (tcsAt s pa).fslimit.toNat, s.lp.ds.limit.toNat < ((tmpFsBase s pa).toNat + off) % 2 ^ 32)
      ∨ ∃ off ≤ (tcsAt s pa).gslimit.toNat, s.lp.ds.limit.toNat < ((tmpGsBase s pa).toNat + off) % 2 ^ 32) →
    exec .encluEenter s = .fault .generalProtection

/-- In 64-bit mode, a proposed FS or GS base that is not canonical raises #GP(0) (R141). -/
def Obligations.NonCanonicalSegmentBaseFaults : Prop :=
  ∀ (s : State) (pa : PhysAddr), s.lp.eax = 2 → DispatchOk s.lp → SegmentsOk s.lp → TcsPageOk s pa → s.lp.mode64 = true →
    (¬CanonicalAddr s.platform.laWidth ((tcsAt s pa).ofsbase + (secsAt s pa).baseaddr)
      ∨ ¬CanonicalAddr s.platform.laWidth ((tcsAt s pa).ogsbase + (secsAt s pa).baseaddr)) →
    exec .encluEenter s = .fault .generalProtection

/-- The first XSAVE page, in the order of the loop, that fails: a fault of its translation is raised unchanged (R152, R224), and a page
outside the EPC or with an EPCM entry that forbids the access raises #PF at its linear address (R153), with the code of D20 (log 7). Which
pages the loop visits is D8 (log 20), and for an unaligned BASEADDR D32 (log 14). -/
def Obligations.SsaPageFaults : Prop :=
  ∀ (s : State) (pa : PhysAddr) (n : Nat), s.lp.eax = 2 → DispatchOk s.lp → SegmentsOk s.lp → TcsPageOk s pa → TcsFieldsOk s pa →
    n < ssaPages s pa → (∀ m < n, ∃ p, EnclavePageOk s (tmpSecs s pa) (tmpSsaPage s pa m) p) →
      (∀ f, translate s (tmpSsaPage s pa n) .readWrite = .error f → exec .encluEenter s = .fault f)
      ∧ (∀ p, translate s (tmpSsaPage s pa n) .readWrite = .ok p → ¬EnclavePageOk s (tmpSecs s pa) (tmpSsaPage s pa n) p →
          exec .encluEenter s = .fault (.pageFault (Config.pfErrorCode .xsavePage .readWrite) (tmpSsaPage s pa n)))

/-- The GPR area: a fault of its translation is raised unchanged, a page outside the EPC or with an EPCM entry that forbids the access raises
#PF at `TMP_GPR` itself (R156), and outside 64-bit mode an area that ends beyond the DS limit raises #GP(0) (R157), the sum being taken modulo
2^32 (D2, log 23). The code of the #PF is D20's (log 7). -/
def Obligations.GprAreaFaults : Prop :=
  ∀ (s : State) (pa : PhysAddr), s.lp.eax = 2 → DispatchOk s.lp → SegmentsOk s.lp → TcsPageOk s pa → TcsFieldsOk s pa →
    XsavePagesOk s pa →
      (∀ f, translate s (tmpGpr s pa) .readWrite = .error f → exec .encluEenter s = .fault f)
      ∧ (∀ p, translate s (tmpGpr s pa) .readWrite = .ok p → ¬EnclavePageOk s (tmpSecs s pa) (tmpGpr s pa) p →
          exec .encluEenter s = .fault (.pageFault (Config.pfErrorCode .gprArea .readWrite) (tmpGpr s pa)))
      ∧ (∀ p, EnclavePageOk s (tmpSecs s pa) (tmpGpr s pa) p → s.lp.mode64 = false →
          s.lp.ds.limit.toNat < ((tmpGpr s pa).toNat + (s.platform.gprsgxSize - 1)) % 2 ^ 32 → exec .encluEenter s = .fault .generalProtection)

/-- The target: not canonical in 64-bit mode (R73; the meaning of canonical is D19, GK6), beyond the CS limit outside it, the sum being taken
modulo 2^32 (D2, log 23), raises #GP(0) (R159). -/
def Obligations.EntryPointFaults : Prop :=
  ∀ (s : State) (pa g : PhysAddr), s.lp.eax = 2 → DispatchOk s.lp → SegmentsOk s.lp → TcsPageOk s pa → TcsFieldsOk s pa →
    XsavePagesOk s pa → GprAreaOk s pa g →
    ((s.lp.mode64 = true ∧ ¬CanonicalAddr s.platform.laWidth ((tcsAt s pa).oentry + (secsAt s pa).baseaddr))
      ∨ (s.lp.mode64 = false
        ∧ s.lp.cs.limit.toNat < ((tcsAt s pa).oentry.toNat + (secsAt s pa).baseaddr.toNat) % 2 ^ 32)) →
    exec .encluEenter s = .fault .generalProtection

/-- A TCS whose STATE is not INACTIVE raises #GP(0) although every other check passes: ACTIVE (R160), and, as C14 and U5 have it, every other
value (log 22). -/
def Obligations.ActiveTcsFaults : Prop :=
  ∀ (s : State) (pa g : PhysAddr), EnterableUpToState s pa g → (tcsAt s pa).state ≠ 0 →
    exec .encluEenter s = .fault .generalProtection

/-- EENTER raises nothing else: #GP(0), #PF at the TCS, at an XSAVE page or at the GPR area, a fault of the translation of one of them, or
what `ENCLU_PRECHECK` returns (R220 (a) to (d), R222, R223, R224). That the code of a #PF is `PF_ERROR_CODE` of the row of R223 and of a
read/write access is D20 (a free value, log 7), and that the TCS is translated for read/write is D24 (log 26). -/
def Obligations.OnlyListedFaults : Prop :=
  ∀ (s : State) (f : Fault), exec .encluEenter s = .fault f →
    f = .generalProtection ∨ s.lp.encluPrecheck = some f
    ∨ (∃ cause ∈ [.tcsNotInEpc, .tcsNotValid, .tcsBlocked, .tcsNotThisTcs, .tcsUnsettled],
        f = .pageFault (Config.pfErrorCode cause .readWrite) (tcsLinear s.lp))
    ∨ translate s (tcsLinear s.lp) .readWrite = .error f
    ∨ ∃ pa, TcsPageOk s pa
      ∧ ((∃ n < ssaPages s pa, f = .pageFault (Config.pfErrorCode .xsavePage .readWrite) (tmpSsaPage s pa n)
            ∨ translate s (tmpSsaPage s pa n) .readWrite = .error f)
          ∨ f = .pageFault (Config.pfErrorCode .gprArea .readWrite) (tmpGpr s pa) ∨ translate s (tmpGpr s pa) .readWrite = .error f)

/-! ## The addresses that the checks compute -/

/-- `LA(SEG, off)` of CS, DS, ES or SS, with it the TCS's linear address, `TMP_SSA`, `TMP_GPR`, the last byte of the GPR area, `TMP_TARGET`,
the proposed bases and, outside 64-bit mode, the proposed limits are the exact sums, reduced once modulo 2^XLEN; of `TMP_GPR`, from which a
size is taken off, the value below 2^XLEN that gives the sum back (R71, R138, R141, R149, R155, R157, R159; D2 to D4, D10, log 23). -/
def Obligations.AddressesWrapAtXlen : Prop :=
  ∀ (s : State) (pa : PhysAddr) (m : Nat), m = (if s.lp.mode64 then 2 ^ 64 else 2 ^ 32) →
    (∀ (seg : Segment) (off : Word),
      (linear s.lp.mode64 seg off).toNat = ((if s.lp.mode64 then 0 else seg.base.toNat) + off.toNat) % m)
    ∧ tcsLinear s.lp = linear s.lp.mode64 s.lp.ds s.lp.gpr.rbx
    ∧ (tmpSsa s pa).toNat =
      ((tcsAt s pa).ossa.toNat + (secsAt s pa).baseaddr.toNat
        + 4096 * (secsAt s pa).ssaframesize.toNat * (tcsAt s pa).cssa.toNat) % m
    ∧ (tmpGpr s pa).toNat < m
    ∧ ((tmpGpr s pa).toNat + s.platform.gprsgxSize) % m = ((tmpSsa s pa).toNat + 4096 * (secsAt s pa).ssaframesize.toNat) % m
    ∧ (gprEnd s pa).toNat = ((tmpGpr s pa).toNat + (s.platform.gprsgxSize - 1)) % m
    ∧ (tmpTarget s pa).toNat = ((tcsAt s pa).oentry.toNat + (secsAt s pa).baseaddr.toNat) % m
    ∧ (tmpFsBase s pa).toNat = ((tcsAt s pa).ofsbase.toNat + (secsAt s pa).baseaddr.toNat) % m
    ∧ (tmpGsBase s pa).toNat = ((tcsAt s pa).ogsbase.toNat + (secsAt s pa).baseaddr.toNat) % m
    ∧ (s.lp.mode64 = false →
      (tmpFsLimit s pa).toNat = ((tcsAt s pa).ofsbase.toNat + (secsAt s pa).baseaddr.toNat + (tcsAt s pa).fslimit.toNat) % m
      ∧ (tmpGsLimit s pa).toNat = ((tcsAt s pa).ogsbase.toNat + (secsAt s pa).baseaddr.toNat + (tcsAt s pa).gslimit.toNat) % m)

/-- With a page-aligned BASEADDR and an aligned OSSA the loop visits `trunc_XLEN(TMP_SSA + 4096 * n)` for n = 0, 1, ..., for each page that
holds a byte of the XSAVE area, and, when `SSA_LOOP_INCLUSIVE` is set, also the page of the byte after it (R151, D8). -/
def Obligations.LoopVisitsXsavePages : Prop :=
  ∀ (s : State) (pa : PhysAddr), BaseAligned s pa → Aligned4K (tcsAt s pa).ossa →
    (∀ n, (tmpSsaPage s pa n).toNat = ((tmpSsa s pa).toNat + 4096 * n) % (if s.lp.mode64 then 2 ^ 64 else 2 ^ 32))
    ∧ (s.platform.ssaLoopInclusive = false → ∀ n, n < ssaPages s pa ↔ 4096 * n < (tmpXsize s pa).toNat)
    ∧ (s.platform.ssaLoopInclusive = true → ∀ n, n < ssaPages s pa ↔ 4096 * n ≤ (tmpXsize s pa).toNat)

/-! ## A successful entry -/

/-- With EAX = 02H, EENTER succeeds exactly when the sixteen conditions of R265 hold, and faults otherwise. The mode in which they are read is
64-bit mode exactly when IA32_EFER.LMA = 1 and CS.L = 1 (R120), LMA being bit 10, and CR4.OSFXSR and CR4.OSXSAVE are bits 9 and 18 (R27, R28;
GK11, log 1). The model's choices in reading the conditions: registers and sums at XLEN bits (D2 to D4, log 23), item 2 on bits 31 to 0 of a
base (log 29), item 3 with a read/write access (D24, log 26) and the TCS's fields read where that access leads (log 30), item 5 as the
holders of log 6, item 8's wrapping segment with DS.limit = FFFFFFFFH (D7, log 19), item 13 with the further page of `SSA_LOOP_INCLUSIVE`
(D8, log 20), items 13 to 15 also for a BASEADDR that is not page aligned (D32, U14, log 14), item 16 as STATE = 0 (C14, log 22). -/
def Obligations.EntersExactlyWhen : Prop :=
  ∀ s : State,
    (s.lp.mode64 = true ↔ s.lp.efer.getLsbD 10 = true ∧ s.lp.cs.ar.l = true)
    ∧ s.lp.osfxsr = s.lp.cr4.getLsbD 9 ∧ s.lp.osxsave = s.lp.cr4.getLsbD 18
    ∧ (s.lp.eax = 2 →
      ((∃ pa g, Enterable s pa g) → ∃ t, exec .encluEenter s = .next t)
      ∧ ((¬∃ pa g, Enterable s pa g) → ∃ f, exec .encluEenter s = .fault f))

/-- RCX is the address of the instruction after ENCLU (R178), truncated to XLEN bits (D3, log 23); RIP is `TMP_TARGET` (R179), RAX the CSSA
(R180), and every other general register is unchanged (R23). `ENCLU_LENGTH` is the platform's: OPEN, 3 by default (D27, GK1, log 13). -/
def Obligations.EntryWritesRegisters : Prop :=
  ∀ (s : State) (pa g : PhysAddr), Enterable s pa g →
    ∃ t, exec .encluEenter s = .next t
      ∧ t.lp.gpr.rcx.toNat = (s.lp.rip.toNat + s.platform.encluBytes.length) % (if s.lp.mode64 then 2 ^ 64 else 2 ^ 32)
      ∧ t.lp.rip = tmpTarget s pa
      ∧ t.lp.gpr.rax = (tcsAt s pa).cssa
      ∧ t.lp.gpr = { s.lp.gpr with rcx := t.lp.gpr.rcx, rax := t.lp.gpr.rax }

/-- Enclave mode (R171), the active SECS and ELRANGE (R172), the TCS (R173), the whole of FS (R175) and of GS (R176) before the entry, and the
GPR area (R158). -/
def Obligations.EntryWritesInternalRegisters : Prop :=
  ∀ (s : State) (pa g : PhysAddr), Enterable s pa g →
    ∃ t, exec .encluEenter s = .next t
      ∧ t.lp.cr.enclaveMode = true
      ∧ t.lp.cr.activeSecs = tmpSecs s pa
      ∧ t.lp.cr.elrangeBase = (secsAt s pa).baseaddr ∧ t.lp.cr.elrangeSize = (secsAt s pa).size
      ∧ t.lp.cr.tcsPa = pa ∧ t.lp.cr.tcsLa = truncXlen s.lp.mode64 s.lp.gpr.rbx
      ∧ t.lp.cr.saveFs = s.lp.fs ∧ t.lp.cr.saveGs = s.lp.gs
      ∧ t.lp.cr.gprPa = g

/-- `CR_XSAVE_PAGE_n` is the physical address of the n-th page of the loop (R154), every one of them, n = 0, 1, ... (R50); those beyond the
last page keep their values (R44). Which pages the loop visits is D8 (log 20), and for an unaligned BASEADDR D32 (log 14). -/
def Obligations.EntryRemembersXsavePages : Prop :=
  ∀ (s : State) (pa g : PhysAddr), Enterable s pa g →
    ∃ t, exec .encluEenter s = .next t
      ∧ (∀ n < ssaPages s pa, translate s (tmpSsaPage s pa n) .readWrite = .ok (t.lp.cr.xsavePage n))
      ∧ (∀ n, ssaPages s pa ≤ n → t.lp.cr.xsavePage n = s.lp.cr.xsavePage n)

/-- XCR0 is saved and replaced when CR4.OSXSAVE = 1, the new value being a subset of the old, and neither register changes when it is 0
(R177). -/
def Obligations.EntrySwapsXcr0 : Prop :=
  ∀ (s : State) (pa g : PhysAddr), Enterable s pa g →
    ∃ t, exec .encluEenter s = .next t
      ∧ (s.lp.osxsave = true →
          t.lp.cr.saveXcr0 = s.lp.xcr0 ∧ t.lp.xcr0 = (secsAt s pa).xfrm ∧ t.lp.xcr0 &&& s.lp.xcr0 = t.lp.xcr0)
      ∧ (s.lp.osxsave = false → t.lp.cr.saveXcr0 = s.lp.cr.saveXcr0 ∧ t.lp.xcr0 = s.lp.xcr0)

/-- FS (R182) and GS (R183) are rebuilt, in both modes, from the TCS and from DS. The final type is `0 ++ 0 ++ DS.W ++ 1`, because W is read as
bit 1 of the type: taken from general knowledge (R35, GK8), the model's choice of log 24. -/
def Obligations.EntryRebuildsFsAndGs : Prop :=
  ∀ (s : State) (pa g : PhysAddr), Enterable s pa g →
    ∃ t, exec .encluEenter s = .next t
      ∧ t.lp.fs = { selector := 0x0B, base := tmpFsBase s pa, limit := (tcsAt s pa).fslimit
                    ar := { type := (0b00 : BitVec 2) ++ BitVec.ofBool (s.lp.ds.ar.type.getLsbD 1) ++ (1 : BitVec 1)
                            s := true, dpl := s.lp.ds.ar.dpl, g := true, b := true, p := true, avl := s.lp.ds.ar.avl
                            l := s.lp.ds.ar.l, unusable := false } }
      ∧ t.lp.gs = { selector := 0x0B, base := tmpGsBase s pa, limit := (tcsAt s pa).gslimit, ar := t.lp.fs.ar }

/-- The bytes of memory that an entry changes are those of TCS.STATE, TCS.AEP, U_RSP and U_RBP, where the layouts put them at the physical
addresses that the checks obtained (R75, R158, R174, R181, R184; D13, D14, logs 13, 22). For a BASEADDR that is not page aligned (D32, log
14), and for layouts whose fields are misaligned or run past a page (R78, log 34), it is the model's choice that the fields are counted from
those physical addresses. -/
def Obligations.EntryStoresNowhereElse : Prop :=
  ∀ (s : State) (pa g : PhysAddr), Enterable s pa g →
    ∃ t, exec .encluEenter s = .next t
      ∧ ∀ a : Nat, ¬EntryStores s.platform pa g a → Memory.byte t.mem a = Memory.byte s.mem a

/-- What an entry stores is there after it: the AEP (R174), the outside RSP and RBP (R181, D13), each modulo 2^32 outside 64-bit mode (D3, log
23), and ACTIVE in TCS.STATE (R184, D14, log 22); for layouts that are layouts (log 13), aligned or not (R78, log 34), memory in canonical
form, BASEADDR page aligned (D32, log 14). -/
def Obligations.EntryStoresReadBack : Prop :=
  ∀ (s : State) (pa g : PhysAddr), Enterable s pa g → Memory.wf s.mem = true → LayoutOk s.platform → BaseAligned s pa →
    ∃ t, exec .encluEenter s = .next t
      ∧ (Memory.readField t.mem pa s.platform.tcsLayout.aep).toNat
          = s.lp.gpr.rcx.toNat % (if s.lp.mode64 then 2 ^ 64 else 2 ^ 32)
      ∧ (Memory.readField t.mem g ⟨s.platform.gprsgxLayout.uRsp, 8⟩).toNat
          = s.lp.gpr.rsp.toNat % (if s.lp.mode64 then 2 ^ 64 else 2 ^ 32)
      ∧ (Memory.readField t.mem g ⟨s.platform.gprsgxLayout.uRbp, 8⟩).toNat
          = s.lp.gpr.rbp.toNat % (if s.lp.mode64 then 2 ^ 64 else 2 ^ 32)
      ∧ (tcsAt t pa).state = 1

/-- The memory an entry leaves is what four `MemWrite`s leave, made one after another at linear addresses: ACTIVE to TCS.STATE at `LA(DS,
RBX)` plus its offset (R184, D14), RCX to TCS.AEP likewise (R174), RSP and RBP, 8 bytes each, to U_RSP and U_RBP in the GPR area at `TMP_GPR`
(R181, D13), each register at XLEN bits (D3); and none of the four can fault (R75). For layouts that are layouts (log 13), aligned or not
(R78, log 34), and a BASEADDR that is page aligned (D32, log 14). -/
def Obligations.StoresAreMemWrites : Prop :=
  ∀ (s : State) (pa g : PhysAddr), Enterable s pa g → LayoutOk s.platform → BaseAligned s pa →
    ∃ t s1 s2 s3 s4,
      memWrite s (tcsLinear s.lp + BitVec.ofNat 64 s.platform.tcsLayout.state.offset) s.platform.tcsLayout.state.bytes 1 = .ok s1
      ∧ memWrite s1 (tcsLinear s.lp + BitVec.ofNat 64 s.platform.tcsLayout.aep.offset) 8
          (s.lp.gpr.rcx.toNat % (if s.lp.mode64 then 2 ^ 64 else 2 ^ 32)) = .ok s2
      ∧ memWrite s2 (tmpGpr s pa + BitVec.ofNat 64 s.platform.gprsgxLayout.uRsp) 8
          (s.lp.gpr.rsp.toNat % (if s.lp.mode64 then 2 ^ 64 else 2 ^ 32)) = .ok s3
      ∧ memWrite s3 (tmpGpr s pa + BitVec.ofNat 64 s.platform.gprsgxLayout.uRbp) 8
          (s.lp.gpr.rbp.toNat % (if s.lp.mode64 then 2 ^ 64 else 2 ^ 32)) = .ok s4
      ∧ exec .encluEenter s = .next t ∧ t.mem = s4.mem

/-- What a successful entry leaves unchanged: CS, SS, DS, ES, IA32_EFER, CR4, the control of the monitor trap flag, every RFLAGS bit but
TF, the EPCM and the platform (R26, R36, R59, R185, R200). The locks and uses are unchanged because the model's EENTER is one step that takes
none (D15, log 6). That the answer of ENCLU_PRECHECK is a datum which an entry keeps is the model's choice (D6, log 5), the order of the
logical processors and their identifiers are the model's own fields (log 12), and that TF is bit 8 of RFLAGS is PRESUMED (GK11, log 1). -/
def Obligations.EntryLeavesUnchanged : Prop :=
  ∀ (s : State) (pa g : PhysAddr), Enterable s pa g →
    ∃ t, exec .encluEenter s = .next t
      ∧ t.lp.cs = s.lp.cs ∧ t.lp.ss = s.lp.ss ∧ t.lp.ds = s.lp.ds ∧ t.lp.es = s.lp.es
      ∧ t.lp.efer = s.lp.efer ∧ t.lp.cr4 = s.lp.cr4 ∧ t.lp.mtfControl = s.lp.mtfControl
      ∧ (∀ i, i ≠ 8 → t.lp.rflags.getLsbD i = s.lp.rflags.getLsbD i)
      ∧ t.lp.id = s.lp.id ∧ t.lp.encluPrecheck = s.lp.encluPrecheck
      ∧ t.epcm = s.epcm ∧ t.tcsLocks = s.tcsLocks ∧ t.secsUses = s.secsUses ∧ t.platform = s.platform ∧ t.order = s.order

/-- The SECS, and every field of the TCS but STATE and AEP, are unchanged (R185), when the enclave was built as its creation guarantees (D25,
D32, logs 14, 26) and the layouts are layouts (log 13), aligned or not (R78, log 34). -/
def Obligations.EntryKeepsSecsAndTcs : Prop :=
  ∀ (s : State) (pa g : PhysAddr), Enterable s pa g → LayoutOk s.platform → EnclavesBuilt s →
    ∃ t, exec .encluEenter s = .next t
      ∧ (∀ i < 4096, Memory.byte t.mem (tmpSecs s pa + BitVec.ofNat 64 i).toNat
            = Memory.byte s.mem (tmpSecs s pa + BitVec.ofNat 64 i).toNat)
      ∧ secsAt t pa = secsAt s pa
      ∧ tcsAt t pa = { tcsAt s pa with state := (tcsAt t pa).state }

/-- The linear context is flushed: every later access is translated afresh by the paging structures (R93, R198). -/
def Obligations.EntryFlushesLinearContext : Prop :=
  ∀ (s : State) (pa g : PhysAddr), Enterable s pa g →
    ∃ t, exec .encluEenter s = .next t
      ∧ t.lp.linearContext = [] ∧ ∀ la acc, translatePage t la acc = walk s.platform la acc

/-! ## Debug behaviour and performance monitoring -/

/-- An opt-out entry: `CR_DBGOPTIN` is 0, TF is saved and cleared, breakpoints in ELRANGE and the monitor trap flag are suppressed, and what was
pending is discarded, so that nothing is due at the boundary after the entry (R193, R195, R200; C10, D28, logs 11, 27). That TF is bit 8 of
RFLAGS is PRESUMED (GK11, log 1), and DBGOPTIN is bit 0 of TCS.FLAGS by D26. -/
def Obligations.OptOutEntrySuppressesDebug : Prop :=
  ∀ (s : State) (pa g : PhysAddr), Enterable s pa g → (tcsAt s pa).flags.getLsbD 0 = false →
    ∃ t, exec .encluEenter s = .next t
      ∧ t.lp.cr.dbgOptIn = false
      ∧ t.lp.cr.saveTf = s.lp.rflags.getLsbD 8 ∧ t.lp.rflags.getLsbD 8 = false
      ∧ t.lp.dbg.suppressCodeBpInElrange = true ∧ t.lp.dbg.suppressDataBpInElrange = true ∧ t.lp.dbg.mtfSuppressed = true
      ∧ t.lp.pend.debugExceptions = [] ∧ t.lp.pend.mtfVmExit = false
      ∧ dueEvent t = none

/-- An opt-in entry: `CR_DBGOPTIN` is 1, TF is not changed and not saved, what was pending is kept, a single-step #DB is pended when TF = 1 and
an MTF VM exit when the control is set, and of the suppression bits only the one for code breakpoints outside ELRANGE is set (R193, R194,
R196, R197, R200; D28, log 27). That TF is bit 8 of RFLAGS is PRESUMED (GK11, log 1), and DBGOPTIN is bit 0 of TCS.FLAGS by D26. -/
def Obligations.OptInEntryPendsEvents : Prop :=
  ∀ (s : State) (pa g : PhysAddr), Enterable s pa g → (tcsAt s pa).flags.getLsbD 0 = true →
    ∃ t, exec .encluEenter s = .next t
      ∧ t.lp.cr.dbgOptIn = true
      ∧ t.lp.rflags = s.lp.rflags ∧ t.lp.cr.saveTf = s.lp.cr.saveTf
      ∧ (∀ ev, ev ∈ t.lp.pend.debugExceptions ↔
          ev ∈ s.lp.pend.debugExceptions ∨ (ev = .singleStep ∧ s.lp.rflags.getLsbD 8 = true))
      ∧ (t.lp.pend.mtfVmExit = true ↔ s.lp.pend.mtfVmExit = true ∨ s.lp.mtfControl = true)
      ∧ t.lp.dbg = { s.lp.dbg with suppressCodeBpOutsideElrange := true }

/-- After an opt-in entry with TF = 1 and no MTF VM exit to pend, the next step delivers the single-step #DB with the new RIP, in enclave
mode, before the first enclave instruction (R196, R199, R225, R232; log 11). That TF is bit 8 of RFLAGS is PRESUMED (GK11, log 1), and DBGOPTIN
is bit 0 of TCS.FLAGS by D26. -/
def Obligations.SingleStepDeliveredAfterEntry : Prop :=
  ∀ (s : State) (pa g : PhysAddr), Enterable s pa g → (tcsAt s pa).flags.getLsbD 0 = true →
    s.lp.rflags.getLsbD 8 = true → s.lp.mtfControl = false → s.lp.pend.mtfVmExit = false →
    ∃ t events, exec .encluEenter s = .next t ∧ t.lp.cr.enclaveMode = true
      ∧ step t = .fault (.debugException events (tmpTarget s pa)) ∧ DebugEvent.singleStep ∈ events

/-- After an opt-in entry that pends an MTF VM exit, or keeps one pending, the next step delivers it with the new RIP, in enclave mode, before
the first enclave instruction (R197, R199, R226): alone, and beside a #DB where `PEND_ORDER` puts it first; where that puts the #DB first,
the step delivers that (D36, log 11). That TF is bit 8 of RFLAGS is PRESUMED (GK11, log 1), and DBGOPTIN is bit 0 of TCS.FLAGS by D26. -/
def Obligations.MtfExitDeliveredAfterEntry : Prop :=
  ∀ (s : State) (pa g : PhysAddr), Enterable s pa g → (tcsAt s pa).flags.getLsbD 0 = true →
    (s.lp.mtfControl = true ∨ s.lp.pend.mtfVmExit = true) →
    ∃ t, exec .encluEenter s = .next t ∧ t.lp.cr.enclaveMode = true
      ∧ (s.lp.rflags.getLsbD 8 = false → s.lp.pend.debugExceptions = [] → step t = .fault (.mtfVmExit (tmpTarget s pa)))
      ∧ (s.lp.rflags.getLsbD 8 = true ∨ s.lp.pend.debugExceptions ≠ [] →
        (s.platform.pendOrder = .mtfFirst → step t = .fault (.mtfVmExit (tmpTarget s pa)))
        ∧ (s.platform.pendOrder = .debugFirst →
            ∃ events, step t = .fault (.debugException events (tmpTarget s pa))
              ∧ (∀ ev, ev ∈ events ↔ ev ∈ s.lp.pend.debugExceptions ∨ (ev = .singleStep ∧ s.lp.rflags.getLsbD 8 = true))))

/-- After any entry every code breakpoint without a byte in ELRANGE is suppressed (R194), and after an opt-out entry every code breakpoint, and
of the data breakpoints exactly those with a byte in ELRANGE (R195 (a), C10). Suppression is kept as bits (D28), and what overlaps an ELRANGE
that is empty or ends past the top of the address space is the model's choice (log 27). DBGOPTIN is bit 0 of TCS.FLAGS (D26). -/
def Obligations.EntrySuppressesBreakpoints : Prop :=
  ∀ (s : State) (pa g : PhysAddr), Enterable s pa g →
    ∃ t, exec .encluEenter s = .next t
      ∧ ∀ (a : LinAddr) (len : Nat),
        (¬OverlapsRange (secsAt s pa).baseaddr (secsAt s pa).size a len → codeBreakpointSuppressed t.lp a len = true)
        ∧ ((tcsAt s pa).flags.getLsbD 0 = false →
          codeBreakpointSuppressed t.lp a len = true
          ∧ (dataBreakpointSuppressed t.lp a len = true ↔ OverlapsRange (secsAt s pa).baseaddr (secsAt s pa).size a len))

/-- Performance monitoring of the executing thread: after an opt-out entry every counter but FIXED_CTR1 and FIXED_CTR2 is suppressed (R203)
and PEBS is (R204); that an opt-in entry changes nothing of it is the spec's inference (R202). Suppression is a bit with the meaning that
`counterSuppressed` gives it (D28, log 27). DBGOPTIN is bit 0 of TCS.FLAGS (D26). -/
def Obligations.EntrySuppressesMonitoring : Prop :=
  ∀ (s : State) (pa g : PhysAddr), Enterable s pa g →
    ∃ t, exec .encluEenter s = .next t
      ∧ ((tcsAt s pa).flags.getLsbD 0 = false →
          (∀ c, counterSuppressed t.lp c = true ↔ c ≠ .fixedCtr1 ∧ c ≠ .fixedCtr2)
          ∧ t.lp.pmu = { s.lp.pmu with suppressed := true, pebsSuppressed := true })
      ∧ ((tcsAt s pa).flags.getLsbD 0 = true → t.lp.pmu = s.lp.pmu ∧ t.lp.perfGlobalStatus = s.lp.perfGlobalStatus)

/-- IA32_PERF_GLOBAL_STATUS of the executing thread: every bit but 60 and 63 is unchanged, and those two are never cleared (R30, R206, D28).
Whether an opt-out entry sets them is a free value (log 8): this holds for both outcomes. That the register has 64 bits is PRESUMED (log
32). -/
def Obligations.EntryNeverClearsStatusBits : Prop :=
  ∀ (s : State) (pa g : PhysAddr), Enterable s pa g →
    ∃ t, exec .encluEenter s = .next t
      ∧ ∀ i, (i ≠ 60 → i ≠ 63 → t.lp.perfGlobalStatus.getLsbD i = s.lp.perfGlobalStatus.getLsbD i)
          ∧ (s.lp.perfGlobalStatus.getLsbD i = true → t.lp.perfGlobalStatus.getLsbD i = true)

/-- The other logical processors: an opt-out entry demotes each sibling that counts in AnyThread mode and sets bit 60 of its status (R205); it
changes nothing else of it and nothing of the others, and an opt-in entry changes none of them (R202, R253). Which threads are siblings is the
platform's (D37); that a thread counts in AnyThread mode is a bit of its own, which a demotion leaves as it is, so that a later entry demotes
it again (log 25). That the status register has 64 bits is PRESUMED (log 32), and DBGOPTIN is bit 0 of TCS.FLAGS (D26). -/
def Obligations.EntryDemotesSiblings : Prop :=
  ∀ (s : State) (pa g : PhysAddr), Enterable s pa g →
    ∃ t, exec .encluEenter s = .next t
      ∧ t.others.length = s.others.length
      ∧ ∀ (i : Nat) (o : LogicalProcessor), s.others[i]? = some o →
        ∃ o', t.others[i]? = some o'
          ∧ o' = { o with pmu := { o.pmu with anyThreadDemoted := o'.pmu.anyThreadDemoted }
                          perfGlobalStatus := o'.perfGlobalStatus }
          ∧ ((tcsAt s pa).flags.getLsbD 0 = false → (s.lp.id, o.id) ∈ s.platform.siblings →
              o.pmu.anyThreadCounting = true →
              o'.pmu.anyThreadDemoted = true ∧ countsOtherThreads o' = false
              ∧ ∀ b < 64, o'.perfGlobalStatus.getLsbD b = (decide (b = 60) || o.perfGlobalStatus.getLsbD b))
          ∧ (((tcsAt s pa).flags.getLsbD 0 = true ∨ (s.lp.id, o.id) ∉ s.platform.siblings
              ∨ o.pmu.anyThreadCounting = false) → o' = o)

/-- After an opt-out entry, a POPF that would set TF leaves it clear while in the enclave (R201; D26, log 28). -/
def Obligations.PopfCannotSetTfAfterOptOut : Prop :=
  ∀ (s : State) (pa g : PhysAddr), Enterable s pa g → (tcsAt s pa).flags.getLsbD 0 = false →
    ∃ t, exec .encluEenter s = .next t ∧ ∀ requested, tfAfterPopf t.lp requested = false

/-! ## What an entry does not depend on -/

/-- The leaf number is EAX: bits 63 to 32 of RAX change nothing, in either mode (R22, R100). -/
def Obligations.UpperHalfOfRaxIgnored : Prop :=
  ∀ (s : State) (v : Word), v.setWidth 32 = s.lp.gpr.rax.setWidth 32 →
    exec .encluEenter { s with lp := { s.lp with gpr := { s.lp.gpr with rax := v } } } = exec .encluEenter s

/-- Outside 64-bit mode the upper halves of RBX, RCX, RSP, RBP and RIP are ignored: two such states fault alike, and where one enters, the other
does, with the same memory, the same RIP, RAX and RCX, and the same internal registers (R22, R162 (d), D3). -/
def Obligations.UpperHalvesIgnoredOutside64 : Prop :=
  ∀ (s s' : State) (rbx rcx rsp rbp rip : Word), s.lp.mode64 = false →
    rbx.setWidth 32 = s.lp.gpr.rbx.setWidth 32 → rcx.setWidth 32 = s.lp.gpr.rcx.setWidth 32 →
    rsp.setWidth 32 = s.lp.gpr.rsp.setWidth 32 → rbp.setWidth 32 = s.lp.gpr.rbp.setWidth 32 →
    rip.setWidth 32 = s.lp.rip.setWidth 32 →
    s' = { s with lp := { s.lp with gpr := { s.lp.gpr with rbx := rbx, rcx := rcx, rsp := rsp, rbp := rbp }, rip := rip } } →
      (∀ f, exec .encluEenter s = .fault f → exec .encluEenter s' = .fault f)
      ∧ ∀ t, exec .encluEenter s = .next t →
        ∃ t', exec .encluEenter s' = .next t' ∧ t'.mem = t.mem ∧ t'.lp.rip = t.lp.rip
          ∧ t'.lp.gpr.rax = t.lp.gpr.rax ∧ t'.lp.gpr.rcx = t.lp.gpr.rcx ∧ t'.lp.cr = t.lp.cr

/-- In 64-bit mode no base, limit, usability or kind of DS, ES, SS or CS decides whether or how the entry faults (R121 to R125, R157 and
R162 (c): none of those checks applies; R71, D4: the bases are taken as zero). -/
def Obligations.SegmentsNotCheckedIn64 : Prop :=
  ∀ (s : State) (cs ss ds es : Segment), s.lp.mode64 = true → cs.ar.l = s.lp.cs.ar.l →
    ∀ f, exec .encluEenter s = .fault f ↔
      exec .encluEenter { s with lp := { s.lp with cs := cs, ss := ss, ds := ds, es := es } } = .fault f

/-- Outside 64-bit mode the AEP is not tested: RCX decides neither whether nor how the entry faults (R128). -/
def Obligations.AepNotTestedOutside64 : Prop :=
  ∀ (s : State) (rcx : Word), s.lp.mode64 = false →
    ∀ f, exec .encluEenter s = .fault f ↔
      exec .encluEenter { s with lp := { s.lp with gpr := { s.lp.gpr with rcx := rcx } } } = .fault f

/-! ## Sharing, and what every step keeps -/

/-- After an entry, whichever logical processor executes EENTER on the same TCS gets #GP(0), although every other check passes (R160, R184,
R211, R269 (a); D14, log 22); for layouts that are layouts, the same for both (log 13), aligned or not (R78, log 34). -/
def Obligations.EnteredTcsIsNotEnteredAgain : Prop :=
  ∀ (s s' : State) (pa g g' : PhysAddr), Enterable s pa g → Memory.wf s.mem = true → LayoutOk s.platform → BaseAligned s pa →
    ∃ t, exec .encluEenter s = .next t
      ∧ (s'.mem = t.mem → s'.platform.tcsLayout = t.platform.tcsLayout → EnterableUpToState s' pa g' →
          exec .encluEenter s' = .fault .generalProtection)

/-- The state right after reset: not in enclave mode, nothing suppressed, nothing pending (R60, R261: the spec's own choice, D22). -/
def Obligations.ResetValues : Prop :=
  Sys2Proof.core.reset = State.reset
  ∧ State.reset.lp.cr.enclaveMode = false
  ∧ State.reset.lp.dbg = { suppressCodeBpOutsideElrange := false, suppressCodeBpInElrange := false
                           suppressDataBpInElrange := false, mtfSuppressed := false }
  ∧ State.reset.lp.pmu.suppressed = false ∧ State.reset.lp.pmu.pebsSuppressed = false
  ∧ State.reset.lp.pmu.anyThreadDemoted = false
  ∧ State.reset.lp.pend.debugExceptions = [] ∧ State.reset.lp.pend.mtfVmExit = false

/-- The invariants below hold right after reset: memory in canonical form, every logical processor in enclave mode set up for it, no TCS
shared. That memory and the EPCM are empty there (logs 2, 3) and which layouts it has (log 13) is the model's choice. -/
def Obligations.ResetMeetsInvariants : Prop :=
  Memory.wf State.reset.mem = true ∧ EnclaveModeInv State.reset ∧ TcsExclusive State.reset

/-- Every step keeps memory in canonical form, and changes neither the EPCM nor the locks nor the platform's parameters (R56, R59). -/
def Obligations.StepKeepsMemoryCanonical : Prop :=
  ∀ s t : State, Memory.wf s.mem = true → step s = .next t →
    Memory.wf t.mem = true ∧ t.epcm = s.epcm ∧ t.tcsLocks = s.tcsLocks ∧ t.secsUses = s.secsUses ∧ t.platform = s.platform

/-- A step that answers a next state takes the executing logical processor, which was not in enclave mode, into it, and takes none of the
others into it or out of it: `u` is the state before the next logical processor of the order takes its turn (log 12). The instruction of
this spec enters, and EEXIT and AEX, which leave, are outside it (R45, R119, R171, R240, R253). So with as many logical processors as
before, one more is in enclave mode. -/
def Obligations.StepEntersEnclaveModeOnce : Prop :=
  ∀ s t : State, step s = .next t →
    (∃ u, t = advance u ∧ u.lp.id = s.lp.id ∧ s.lp.cr.enclaveMode = false ∧ u.lp.cr.enclaveMode = true
      ∧ u.others.map (·.id) = s.others.map (·.id)
      ∧ u.others.map (·.cr.enclaveMode) = s.others.map (·.cr.enclaveMode))
    ∧ (processors t).length = (processors s).length
    ∧ (processors t).countP (fun l => l.cr.enclaveMode) = (processors s).countP (fun l => l.cr.enclaveMode) + 1

/-- Every step keeps every logical processor in enclave mode set up as an entry leaves it (R241): linear context flushed, FS and GS with
selector 0BH, type 0, 0, W, 1 and S, G, B, P set (log 24), code breakpoints outside ELRANGE suppressed, XCR0 a subset of the saved one, and
after an opt-out entry TF clear and the breakpoints in ELRANGE, data breakpoints among them (C10), the monitor trap flag, performance
monitoring and PEBS suppressed. That the suppression is state which nothing clears is D28 (log 27). -/
def Obligations.StepKeepsEnclaveModeSetUp : Prop :=
  ∀ s t : State, EnclaveModeInv s → step s = .next t → EnclaveModeInv t

/-- One TCS serves one logical processor at a time, in every state that a step can reach from one where it does (R160, R184, R269 (a); that an
entry marks the TCS is D14, log 22), for layouts that are layouts (log 13), aligned or not (R78, log 34), and enclaves built as their creation
guarantees (D25, D32, logs 14, 26). -/
def Obligations.StepKeepsTcsExclusive : Prop :=
  ∀ s t : State, TcsExclusive s → step s = .next t → TcsExclusive t
end

