-- ==== Sys2Proof/Laws/Operand.lean ====
section
/-! SUPPORT. The tests on operands, in the words of the spec: alignment, canonical addresses, pages, widths, the locks, FS and GS inside DS,
XFRM and TCS.FLAGS. -/

namespace Sys2Proof.Machine

open Sys2Proof.Safety

/-! ## Pages and alignment -/

theorem pageOffset_toNat (a : Word) : (pageOffset a).toNat = a.toNat % 4096 := by
  simp [pageOffset]

theorem pageNumber_toNat (a : Word) : (pageNumber a).toNat = a.toNat / 4096 := by
  have := a.isLt
  simp only [pageNumber, BitVec.extractLsb'_toNat, Nat.shiftRight_eq_div_pow]
  omega

theorem pageBase_toNat (a : Word) : (pageBase a).toNat = a.toNat / 4096 * 4096 := by
  simp only [pageBase, BitVec.toNat_append, pageNumber_toNat]
  simp [Nat.shiftLeft_eq]

theorem physAt_toNat (frame : PageNumber) (la : LinAddr) : (physAt frame la).toNat = frame.toNat * 4096 + la.toNat % 4096 := by
  simp only [physAt, BitVec.toNat_append, pageOffset_toNat, Nat.shiftLeft_eq]
  rw [← Nat.shiftLeft_eq, ← Nat.shiftLeft_add_eq_or_of_lt (by omega), Nat.shiftLeft_eq]

@[simp] theorem pageNumber_physAt (frame : PageNumber) (la : LinAddr) : pageNumber (physAt frame la) = frame := by
  apply BitVec.eq_of_toNat_eq
  rw [pageNumber_toNat, physAt_toNat]
  omega

theorem aligned4K_iff (a : Word) : aligned4K a = true ↔ Aligned4K a := by
  simp only [aligned4K, beq_iff_eq, ← BitVec.toNat_inj, pageOffset_toNat]
  simp

theorem aligned4K_eq_false_iff (a : Word) : aligned4K a = false ↔ ¬Aligned4K a := by
  rw [← aligned4K_iff]
  simp

theorem ne_pageBase_iff (a b : Word) : (b ≠ pageBase a) ↔ b.toNat ≠ a.toNat / 4096 * 4096 := by
  rw [Ne, ← BitVec.toNat_inj, pageBase_toNat]

/-! ## Canonical addresses (R73) -/

theorem canonical_iff (w : Nat) (a : Word) : canonical w a = true ↔ CanonicalAddr w a := by
  have ha := a.isLt
  simp only [canonical, Bool.or_eq_true, beq_iff_eq, CanonicalAddr]
  generalize w - 1 = k
  have bit : ∀ i, (a.toNat >>> k).testBit i = a.getLsbD (k + i) := by
    intro i
    rw [Nat.testBit_shiftRight, BitVec.testBit_toNat]
  constructor
  · rintro (h | h) i hi j hj hki hkj
    · have h1 := bit (i - k)
      have h2 := bit (j - k)
      rw [h, Nat.zero_testBit] at h1 h2
      rw [Nat.add_sub_cancel' hki] at h1
      rw [Nat.add_sub_cancel' hkj] at h2
      rw [← h1, ← h2]
    · have h1 := bit (i - k)
      have h2 := bit (j - k)
      rw [h, Nat.testBit_two_pow_sub_one] at h1 h2
      rw [Nat.add_sub_cancel' hki] at h1
      rw [Nat.add_sub_cancel' hkj] at h2
      rw [← h1, ← h2, decide_eq_true (by omega : i - k < 64 - k), decide_eq_true (by omega : j - k < 64 - k)]
  · intro h
    by_cases hk : 64 ≤ k
    · left
      rw [Nat.shiftRight_eq_div_pow, Nat.div_eq_of_lt]
      exact Nat.lt_of_lt_of_le ha (Nat.pow_le_pow_right (by omega) hk)
    · have h63 : ∀ i < 64, k ≤ i → a.getLsbD i = a.getLsbD 63 := fun i hi hki => h i hi 63 (by omega) hki (by omega)
      cases hb : a.getLsbD 63 with
      | false =>
        left
        apply Nat.eq_of_testBit_eq
        intro i
        rw [bit, Nat.zero_testBit]
        by_cases hi : k + i < 64
        · rw [h63 _ hi (by omega), hb]
        · exact BitVec.getLsbD_of_ge _ _ (by omega)
      | true =>
        right
        apply Nat.eq_of_testBit_eq
        intro i
        rw [bit, Nat.testBit_two_pow_sub_one]
        by_cases hi : k + i < 64
        · rw [h63 _ hi (by omega), hb]
          simp; omega
        · rw [BitVec.getLsbD_of_ge _ _ (by omega)]
          simp; omega

theorem canonical_eq_false_iff (w : Nat) (a : Word) : canonical w a = false ↔ ¬CanonicalAddr w a := by
  rw [← canonical_iff]
  simp

/-! ## Widths -/

@[simp] theorem truncXlen_true (v : Word) : truncXlen true v = v := rfl

theorem truncXlen_toNat (m : Bool) (v : Word) : (truncXlen m v).toNat = v.toNat % 2 ^ (if m then 64 else 32) := by
  have := v.isLt
  cases m
  · simp [truncXlen]
    omega
  · simp [truncXlen, Nat.mod_eq_of_lt this]

/-- In 64-bit mode the AEP's linear address is RCX (R71, R128). -/
theorem aepLinear_of_mode64 {lp : LogicalProcessor} (h : lp.mode64 = true) : aepLinear lp = lp.gpr.rcx := by
  simp [aepLinear, linear, h, segBase, truncXlen]

/-! ## Locks -/

theorem isAnother_iff (s : State) (id : Nat) : isAnother s id = true ↔ AnotherProcessor s id := by
  simp [isAnother, AnotherProcessor]

/-- With one logical processor there is no other (R251). -/
theorem isAnother_of_alone {s : State} (h : s.others = []) (id : Nat) : isAnother s id = false := by
  simp [isAnother, h]

theorem tcsBusy_eq_false_iff (s : State) (pa : PhysAddr) : tcsBusy s pa = false ↔ TcsFree s pa := by
  simp only [tcsBusy, List.any_eq_false, TcsFree, Bool.and_eq_true, beq_iff_eq, isAnother_iff, not_and, and_imp]

theorem secsInUse_eq_false_iff (s : State) (pa : PhysAddr) : secsInUse s (tmpSecs s pa) = false ↔ SecsFree s pa := by
  simp only [secsInUse, List.any_eq_false, SecsFree, Bool.and_eq_true, beq_iff_eq, isAnother_iff, not_and]

/-! ## FS and GS inside DS (R139, R140) -/

theorem outsideDs_eq_false_iff (base limit : LinAddr) (dsLimit : BitVec 32) :
    outsideDs base limit dsLimit = false ↔ InsideDs base limit dsLimit := by
  have hd := dsLimit.isLt
  simp only [outsideDs, InsideDs, BitVec.lt_def]
  split
  · simp only [bne_eq_false_iff_eq, ← BitVec.toNat_inj]
    constructor
    · intro h
      exact ⟨fun _ => by simpa using h, fun h' => by omega⟩
    · intro h
      simpa using h.1 ‹_›
  · simp only [decide_eq_false_iff_not, BitVec.toNat_setWidth]
    rw [Nat.mod_eq_of_lt (by omega)]
    constructor
    · intro h
      exact ⟨fun h' => by omega, fun _ => by omega⟩
    · intro h
      have := h.2 (by omega)
      omega

/-! ## XFRM and TCS.FLAGS -/

theorem and_eq_left_iff (x y : Word) : x &&& y = x ↔ ∀ i < 64, x.getLsbD i = true → y.getLsbD i = true := by
  constructor
  · intro h i _ hx
    rw [← h, BitVec.getLsbD_and, Bool.and_eq_true] at hx
    exact hx.2
  · intro h
    apply BitVec.eq_of_getLsbD_eq
    intro i hi
    rw [BitVec.getLsbD_and]
    cases hx : x.getLsbD i
    · rfl
    · rw [h i hi hx]
      rfl

theorem illegalXfrm_eq_false_iff (lp : LogicalProcessor) (xfrm : Word) :
    illegalXfrm lp xfrm = false ↔
      (lp.osxsave = false → xfrm = 3)
      ∧ (lp.osxsave = true → ∀ i < 64, xfrm.getLsbD i = true → lp.xcr0.getLsbD i = true) := by
  unfold illegalXfrm
  cases h : lp.osxsave
  · simp [Config.legacyXfrm]
  · simp only [if_true, bne_eq_false_iff_eq, and_eq_left_iff]
    simp

theorem flagsReserved_eq_zero_iff (flags : Word) :
    flags &&& Config.tcsFlagsReserved = 0 ↔ ∀ i < 64, 1 ≤ i → flags.getLsbD i = false := by
  have hmask : ∀ i < 64, Config.tcsFlagsReserved.getLsbD i = decide (1 ≤ i) := by decide
  constructor
  · intro h i hi h1
    have := congrArg (fun v => BitVec.getLsbD v i) h
    simp only [BitVec.getLsbD_and, hmask i hi] at this
    simpa [h1] using this
  · intro h
    apply BitVec.eq_of_getLsbD_eq
    intro i hi
    rw [BitVec.getLsbD_and, hmask i hi]
    by_cases h1 : 1 ≤ i
    · simp [h i hi h1]
    · simp [h1]

/-! ## ELRANGE -/

theorem overlapsElrange_iff (cr : CrRegs) (a : LinAddr) (len : Nat) :
    overlapsElrange cr a len = true ↔ OverlapsRange cr.elrangeBase cr.elrangeSize a len := by
  simp only [overlapsElrange, decide_eq_true_eq]
  exact ⟨fun h => ⟨max cr.elrangeBase.toNat a.toNat, by omega, by omega⟩, fun ⟨b, h, h'⟩ => by omega⟩

end Sys2Proof.Machine
end

