-- ==== Sys2Proof/Laws/Check.lean ====
section
/-! SUPPORT. What each stage of the check phase can do: when it passes, and what it raises when it does not (40_eenter.md R118 to R160). -/

namespace Sys2Proof.Machine

open Sys2Proof.Safety

/-! ## `raiseIf` and sequences of it -/

theorem raiseIf_bind {α : Type} (c : Bool) (f : Fault) (k : Unit → Except Fault α) :
    (raiseIf c f >>= k) = if c then .error f else k () := by
  cases c <;> rfl

@[simp] theorem raiseIf_false (f : Fault) : raiseIf false f = .ok () := rfl

@[simp] theorem raiseIf_true (f : Fault) : raiseIf true f = .error f := rfl

theorem raiseIf_eq_ok_iff (c : Bool) (f : Fault) : raiseIf c f = .ok () ↔ c = false := by
  cases c <;> simp

theorem raiseIf_eq_error_iff (c : Bool) (f g : Fault) : raiseIf c f = .error g ↔ c = true ∧ g = f := by
  cases c <;> simp [eq_comm]

/-- A stage in a sequence. -/
theorem bind_eq_ok_iff {α β : Type} (x : Except Fault α) (k : α → Except Fault β) (b : β) :
    (x >>= k) = .ok b ↔ ∃ a, x = .ok a ∧ k a = .ok b := by
  cases x <;> simp [Bind.bind, Except.bind]

/-- A stage in a sequence raises, or a later one. -/
theorem bind_eq_error_iff {α β : Type} (x : Except Fault α) (k : α → Except Fault β) (f : Fault) :
    (x >>= k) = .error f ↔ x = .error f ∨ ∃ a, x = .ok a ∧ k a = .error f := by
  cases x <;> simp [Bind.bind, Except.bind]

/-- A stage that hands nothing on. -/
theorem unit_bind_eq_ok_iff {β : Type} (x : Except Fault Unit) (k : Unit → Except Fault β) (b : β) :
    (x >>= k) = .ok b ↔ x = .ok () ∧ k () = .ok b := by
  cases x <;> simp [Bind.bind, Except.bind]

/-- A stage that hands nothing on raises, or a later one. -/
theorem unit_bind_eq_error_iff {β : Type} (x : Except Fault Unit) (k : Unit → Except Fault β) (f : Fault) :
    (x >>= k) = .error f ↔ x = .error f ∨ (x = .ok () ∧ k () = .error f) := by
  cases x <;> simp [Bind.bind, Except.bind]

/-! ## R118, R119 -/

theorem checkEnclu_eq_ok_iff (lp : LogicalProcessor) : checkEnclu lp = .ok () ↔ DispatchOk lp := by
  unfold checkEnclu DispatchOk
  cases lp.encluPrecheck <;> simp [raiseIf_eq_ok_iff]

theorem checkEnclu_eq_error_iff (lp : LogicalProcessor) (f : Fault) :
    checkEnclu lp = .error f ↔
      lp.encluPrecheck = some f ∨ (lp.encluPrecheck = none ∧ lp.cr.enclaveMode = true ∧ f = gp0) := by
  unfold checkEnclu
  cases lp.encluPrecheck with
  | some g => simp
  | none => cases lp.cr.enclaveMode <;> simp [eq_comm]

/-! ## R121 to R125 -/

theorem checkSegments_eq_ok_iff (lp : LogicalProcessor) : checkSegments lp = .ok () ↔ SegmentsOk lp := by
  unfold checkSegments SegmentsOk
  simp only [unit_bind_eq_ok_iff, raiseIf_eq_ok_iff]
  cases lp.mode64
  · cases lp.es.ar.unusable <;> cases lp.ss.ar.unusable <;> cases lp.ds.ar.unusable
      <;> simp [AccessRights.expandDownData, Segment.base32, and_assoc]
  · simp

theorem checkSegments_error {lp : LogicalProcessor} {f : Fault} (h : checkSegments lp = .error f) : f = gp0 := by
  unfold checkSegments at h
  simp only [unit_bind_eq_error_iff, raiseIf_eq_error_iff, raiseIf_eq_ok_iff] at h
  rcases h with ⟨_, h⟩ | ⟨_, ⟨_, h⟩ | ⟨_, ⟨_, h⟩ | ⟨_, ⟨_, h⟩ | ⟨_, _, h⟩⟩⟩⟩ <;> exact h

/-! ## R126 to R133 -/

theorem checkTcsEpcm_eq_ok_iff (e : EpcmEntry) (la : LinAddr) :
    checkTcsEpcm e la = .ok () ↔
      e.valid = true ∧ e.blocked = false ∧ e.pending = false ∧ e.modified = false ∧ e.pt = .ptTcs ∧ e.enclaveAddress = la := by
  unfold checkTcsEpcm
  simp only [unit_bind_eq_ok_iff, raiseIf_eq_ok_iff]
  simp [and_assoc]
  tauto

/-- The causes of a #PF at the address of the TCS (R223). -/
def tcsCauses : List Config.PfCause := [.tcsNotInEpc, .tcsNotValid, .tcsBlocked, .tcsNotThisTcs, .tcsUnsettled]

/-- Which of the tests on the TCS page decides: the first that fails, with the code of its row of R223. -/
theorem checkTcsEpcm_eq_error_iff (e : EpcmEntry) (la : LinAddr) (f : Fault) :
    checkTcsEpcm e la = .error f ↔
      (e.valid = false ∧ f = sgxPageFault .tcsNotValid la)
      ∨ (e.valid = true ∧ e.blocked = true ∧ f = sgxPageFault .tcsBlocked la)
      ∨ (e.valid = true ∧ e.blocked = false ∧ (e.enclaveAddress ≠ la ∨ e.pt ≠ .ptTcs) ∧ f = sgxPageFault .tcsNotThisTcs la)
      ∨ (e.valid = true ∧ e.blocked = false ∧ e.enclaveAddress = la ∧ e.pt = .ptTcs ∧ (e.pending = true ∨ e.modified = true)
        ∧ f = sgxPageFault .tcsUnsettled la) := by
  unfold checkTcsEpcm
  simp only [unit_bind_eq_error_iff, raiseIf_eq_error_iff, raiseIf_eq_ok_iff]
  cases e.valid <;> cases e.blocked <;> simp [and_assoc]

theorem checkTcsEpcm_error {e : EpcmEntry} {la : LinAddr} {f : Fault} (h : checkTcsEpcm e la = .error f) :
    ∃ cause ∈ tcsCauses, f = sgxPageFault cause la := by
  rcases (checkTcsEpcm_eq_error_iff _ _ _).1 h with ⟨_, h⟩ | ⟨_, _, h⟩ | ⟨_, _, _, h⟩ | ⟨_, _, _, _, _, h⟩ <;> exact ⟨_, by decide, h⟩

theorem aepOk_iff (s : State) :
    (s.lp.mode64 && !canonical s.platform.laWidth (aepLinear s.lp)) = false ↔ AepOk s := by
  unfold AepOk
  cases h : s.lp.mode64
  · simp
  · simp only [Bool.true_and, Bool.not_eq_false', canonical_iff, aepLinear_of_mode64 h, true_implies]

theorem checkTcsPage_eq_ok_iff (s : State) (pa : PhysAddr) : checkTcsPage s = .ok pa ↔ TcsPageOk s pa := by
  unfold checkTcsPage TcsPageOk TcsAligned TcsResolves TcsEntryOk
  simp only [unit_bind_eq_ok_iff, raiseIf_eq_ok_iff, bind_eq_ok_iff (α := PhysAddr), checkTcsEpcm_eq_ok_iff, aepOk_iff, tcsBusy_eq_false_iff,
    Bool.not_eq_false', aligned4K_iff, pure, Except.pure, Except.ok.injEq]
  constructor
  · rintro ⟨h1, pa', h2, h3, h4, h5, h6, rfl⟩
    exact ⟨h1, ⟨h2, h3⟩, h4, h5, h6⟩
  · rintro ⟨h1, ⟨h2, h3⟩, h4, h5, h6⟩
    exact ⟨h1, pa, h2, h3, h4, h5, h6, rfl⟩

/-- What the TCS page's checks raise: `#GP(0)`, a fault of the translation, or `#PF` at the TCS's address. -/
theorem checkTcsPage_error {s : State} {f : Fault} (h : checkTcsPage s = .error f) :
    f = gp0 ∨ translate s (tcsLinear s.lp) .readWrite = .error f
    ∨ ∃ cause ∈ tcsCauses, f = sgxPageFault cause (tcsLinear s.lp) := by
  unfold checkTcsPage at h
  simp only [unit_bind_eq_error_iff, raiseIf_eq_error_iff, raiseIf_eq_ok_iff, bind_eq_error_iff (α := PhysAddr), pure, Except.pure, reduceCtorEq, and_false, or_false] at h
  rcases h with ⟨_, h⟩ | ⟨_, h | ⟨pa, _, ⟨_, h⟩ | ⟨_, ⟨_, h⟩ | ⟨_, ⟨_, h⟩ | ⟨_, h⟩⟩⟩⟩⟩
  · exact .inl h
  · exact .inr (.inl h)
  · exact .inr (.inr ⟨_, by decide, h⟩)
  · exact .inl h
  · exact .inl h
  · exact .inr (.inr (checkTcsEpcm_error h))

/-! ## R134 to R148 -/

theorem checkFsGs_eq_ok_iff (s : State) (pa : PhysAddr) : checkFsGs s pa = .ok () ↔ FsGsOk s pa := by
  unfold checkFsGs FsGsOk
  cases s.lp.mode64
  · simp [unit_bind_eq_ok_iff, raiseIf_eq_ok_iff, outsideDs_eq_false_iff]
  · simp only [if_true, raiseIf_eq_ok_iff, Bool.or_eq_false_iff, Bool.not_eq_false', canonical_iff]
    simp

theorem checkFsGs_error {s : State} {pa : PhysAddr} {f : Fault} (h : checkFsGs s pa = .error f) : f = gp0 := by
  unfold checkFsGs at h
  split at h
  · exact ((raiseIf_eq_error_iff _ _ _).1 h).2
  · simp only [unit_bind_eq_error_iff, raiseIf_eq_error_iff] at h
    rcases h with ⟨_, h⟩ | ⟨_, _, h⟩ <;> exact h

theorem checkTcsFields_eq_ok_iff (s : State) (pa : PhysAddr) : checkTcsFields s pa = .ok () ↔ TcsFieldsOk s pa := by
  unfold checkTcsFields TcsFieldsOk TcsOffsetsAligned FlagsOk EnclaveOk XfrmOk FrameFree
  simp only [unit_bind_eq_ok_iff, raiseIf_eq_ok_iff, checkFsGs_eq_ok_iff, secsInUse_eq_false_iff,
    Bool.not_eq_false', aligned4K_iff, Bool.or_eq_false_iff, illegalXfrm_eq_false_iff, bne_eq_false_iff_eq,
    flagsReserved_eq_zero_iff, decide_eq_false_iff_not, BitVec.le_def, not_le, ge_iff_le]
  constructor
  · rintro ⟨h1, h2, h3, h4, h5, h6, h7, h8, h9, h10⟩
    exact ⟨⟨h1, h2⟩, h3, h4, h5, ⟨h6, h7.symm⟩, ⟨h8, h9⟩, h10⟩
  · rintro ⟨⟨h1, h2⟩, h3, h4, h5, ⟨h6, h7⟩, ⟨h8, h9⟩, h10⟩
    exact ⟨h1, h2, h3, h4, h5, h6, h7.symm, h8, h9, h10⟩

theorem checkTcsFields_error {s : State} {pa : PhysAddr} {f : Fault} (h : checkTcsFields s pa = .error f) : f = gp0 := by
  unfold checkTcsFields at h
  simp only [unit_bind_eq_error_iff, raiseIf_eq_error_iff] at h
  rcases h with ⟨_, h⟩ | ⟨_, ⟨_, h⟩ | ⟨_, ⟨_, h⟩ | ⟨_, h | ⟨_, h⟩⟩⟩⟩ <;> try exact h
  · exact checkFsGs_error h
  · rcases h with ⟨_, h⟩ | ⟨_, ⟨_, h⟩ | ⟨_, ⟨_, h⟩ | ⟨_, ⟨_, h⟩ | ⟨_, ⟨_, h⟩ | ⟨_, _, h⟩⟩⟩⟩⟩ <;> exact h

/-! ## R151 to R158 -/

theorem checkEnclavePage_eq_ok_iff (s : State) (secs : PhysAddr) (cause : Config.PfCause) (a : LinAddr) (p : PhysAddr) :
    checkEnclavePage s secs cause a = .ok p ↔ EnclavePageOk s secs a p := by
  unfold checkEnclavePage EnclavePageOk
  simp only [unit_bind_eq_ok_iff, raiseIf_eq_ok_iff, bind_eq_ok_iff (α := PhysAddr), pure, Except.pure, Except.ok.injEq, Bool.not_eq_false',
    Bool.or_eq_false_iff, bne_eq_false_iff_eq, ← BitVec.toNat_inj (x := EpcmEntry.enclaveAddress _), pageBase_toNat]
  constructor
  · rintro ⟨p', h1, h2, h3, h4, ⟨h5, h6⟩, ⟨⟨⟨⟨h7, h8⟩, h9⟩, h10⟩, h11⟩, rfl⟩
    exact ⟨h1, h2, h3, h4, h5, h6, h8, h10, h11, h7, h9⟩
  · rintro ⟨h1, h2, h3, h4, h5, h6, h8, h10, h11, h7, h9⟩
    exact ⟨p, h1, h2, h3, h4, ⟨h5, h6⟩, ⟨⟨⟨⟨h7, h8⟩, h9⟩, h10⟩, h11⟩, rfl⟩

/-- What an enclave page's checks raise: a fault of the translation, or `#PF` at the address. -/
theorem checkEnclavePage_error {s : State} {secs : PhysAddr} {cause : Config.PfCause} {a : LinAddr} {f : Fault}
    (h : checkEnclavePage s secs cause a = .error f) :
    translate s a .readWrite = .error f ∨ ((∃ p, translate s a .readWrite = .ok p) ∧ f = sgxPageFault cause a) := by
  unfold checkEnclavePage at h
  simp only [unit_bind_eq_error_iff, raiseIf_eq_error_iff, raiseIf_eq_ok_iff, bind_eq_error_iff (α := PhysAddr), pure, Except.pure, reduceCtorEq, and_false, or_false] at h
  rcases h with h | ⟨p, hp, h⟩
  · exact .inl h
  · refine .inr ⟨⟨p, hp⟩, ?_⟩
    rcases h with ⟨_, h⟩ | ⟨_, ⟨_, h⟩ | ⟨_, ⟨_, h⟩ | ⟨_, ⟨_, h⟩ | ⟨_, ⟨_, h⟩⟩⟩⟩⟩ <;> exact h

/-- The loop passes when every page does; it hands on the pages' physical addresses in order. -/
theorem checkXsavePages_eq_ok_iff (s : State) (pa : PhysAddr) (n count : Nat) (pages : List PhysAddr) :
    checkXsavePages s pa n count = .ok pages ↔
      pages.length = count
      ∧ ∀ i < count, ∃ p, pages[i]? = some p ∧ EnclavePageOk s (tmpSecs s pa) (tmpSsaPage s pa (n + i)) p := by
  induction count generalizing n pages with
  | zero => cases pages <;> simp [checkXsavePages]
  | succ count ih =>
    unfold checkXsavePages
    simp only [bind_eq_ok_iff (α := PhysAddr), bind_eq_ok_iff (α := List PhysAddr), checkEnclavePage_eq_ok_iff, pure, Except.pure, Except.ok.injEq, ih]
    constructor
    · rintro ⟨p, hp, rest, ⟨hl, hr⟩, rfl⟩
      refine ⟨by simp [hl], fun i hi => ?_⟩
      cases i with
      | zero => exact ⟨p, rfl, hp⟩
      | succ i =>
        obtain ⟨q, hq1, hq2⟩ := hr i (by omega)
        exact ⟨q, by simpa using hq1, by rwa [Nat.add_assoc, Nat.add_comm 1 i] at hq2⟩
    · rintro ⟨hl, hr⟩
      obtain ⟨p, hp1, hp2⟩ := hr 0 (by omega)
      cases pages with
      | nil => simp at hl
      | cons q rest =>
        obtain rfl : q = p := by simpa using hp1
        refine ⟨q, hp2, rest, ⟨by simpa using hl, fun i hi => ?_⟩, rfl⟩
        obtain ⟨r, hr1, hr2⟩ := hr (i + 1) (by omega)
        exact ⟨r, by simpa using hr1, by rwa [Nat.add_assoc, Nat.add_comm 1 i]⟩

/-- The loop passes, for some list of physical addresses, when every page does. -/
theorem checkXsavePages_ok_iff (s : State) (pa : PhysAddr) (n count : Nat) :
    (∃ pages, checkXsavePages s pa n count = .ok pages) ↔
      ∀ i < count, ∃ p, EnclavePageOk s (tmpSecs s pa) (tmpSsaPage s pa (n + i)) p := by
  induction count generalizing n with
  | zero => simp [checkXsavePages]
  | succ count ih =>
    unfold checkXsavePages
    simp only [bind_eq_ok_iff (α := PhysAddr), bind_eq_ok_iff (α := List PhysAddr), checkEnclavePage_eq_ok_iff, pure, Except.pure, Except.ok.injEq]
    constructor
    · rintro ⟨_, p, hp, rest, hr, rfl⟩ i hi
      cases i with
      | zero => exact ⟨p, hp⟩
      | succ i =>
        have := (ih (n + 1)).1 ⟨rest, hr⟩ i (by omega)
        rwa [Nat.add_assoc, Nat.add_comm 1 i] at this
    · intro h
      obtain ⟨p, hp⟩ := h 0 (by omega)
      obtain ⟨rest, hr⟩ := (ih (n + 1)).2 fun i hi => by
        have := h (i + 1) (by omega)
        rwa [Nat.add_assoc, Nat.add_comm 1 i]
      exact ⟨_, p, hp, rest, hr, rfl⟩

/-- The loop raises the fault of its first page that fails. -/
theorem checkXsavePages_error {s : State} {pa : PhysAddr} {n count : Nat} {f : Fault}
    (h : checkXsavePages s pa n count = .error f) :
    ∃ i < count, (∀ j < i, ∃ p, EnclavePageOk s (tmpSecs s pa) (tmpSsaPage s pa (n + j)) p)
      ∧ checkEnclavePage s (tmpSecs s pa) .xsavePage (tmpSsaPage s pa (n + i)) = .error f := by
  induction count generalizing n with
  | zero => simp [checkXsavePages] at h
  | succ count ih =>
    unfold checkXsavePages at h
    simp only [bind_eq_error_iff (α := PhysAddr), bind_eq_error_iff (α := List PhysAddr), pure, Except.pure, reduceCtorEq, and_false, exists_false, or_false] at h
    rcases h with h | ⟨p, hp, h⟩
    · exact ⟨0, by omega, fun j hj => by omega, h⟩
    · obtain ⟨i, hi, hj, hf⟩ := ih h
      refine ⟨i + 1, by omega, fun j hj' => ?_, by rwa [Nat.add_assoc, Nat.add_comm 1 i] at hf⟩
      cases j with
      | zero => exact ⟨p, (checkEnclavePage_eq_ok_iff _ _ _ _ _).1 hp⟩
      | succ j =>
        have := hj j (by omega)
        rwa [Nat.add_assoc, Nat.add_comm 1 j] at this

theorem gprInDs_iff (s : State) (pa : PhysAddr) :
    (!s.lp.mode64 && decide (gprEnd s pa > s.lp.ds.limit.setWidth 64)) = false ↔
      (s.lp.mode64 = false → (gprEnd s pa).toNat ≤ s.lp.ds.limit.toNat) := by
  have := s.lp.ds.limit.isLt
  cases s.lp.mode64
  · simp only [Bool.not_false, Bool.true_and, decide_eq_false_iff_not, gt_iff_lt, BitVec.lt_def, BitVec.toNat_setWidth,
      true_implies, not_lt]
    rw [Nat.mod_eq_of_lt (by omega)]
  · simp

theorem checkGprArea_eq_ok_iff (s : State) (pa g : PhysAddr) : checkGprArea s pa = .ok g ↔ GprAreaOk s pa g := by
  unfold checkGprArea GprAreaOk
  simp only [unit_bind_eq_ok_iff, raiseIf_eq_ok_iff, bind_eq_ok_iff (α := PhysAddr), pure, Except.pure, Except.ok.injEq, gprInDs_iff,
    checkEnclavePage_eq_ok_iff]
  constructor
  · rintro ⟨g', h1, h2, rfl⟩
    exact ⟨h1, h2⟩
  · rintro ⟨h1, h2⟩
    exact ⟨g, h1, h2, rfl⟩

theorem checkGprArea_error {s : State} {pa : PhysAddr} {f : Fault} (h : checkGprArea s pa = .error f) :
    checkEnclavePage s (tmpSecs s pa) .gprArea (tmpGpr s pa) = .error f ∨ f = gp0 := by
  unfold checkGprArea at h
  simp only [unit_bind_eq_error_iff, raiseIf_eq_error_iff, raiseIf_eq_ok_iff, bind_eq_error_iff (α := PhysAddr), pure, Except.pure, reduceCtorEq, and_false, or_false] at h
  rcases h with h | ⟨_, _, _, h⟩
  · exact .inl h
  · exact .inr h

/-! ## R159, R160 -/

theorem badTarget_eq_false_iff (s : State) (pa : PhysAddr) : badTarget s (tmpTarget s pa) = false ↔ TargetOk s pa := by
  have := s.lp.cs.limit.isLt
  unfold badTarget TargetOk
  cases s.lp.mode64
  · simp only [Bool.false_eq_true, if_false, decide_eq_false_iff_not, gt_iff_lt, BitVec.lt_def, BitVec.toNat_setWidth,
      not_lt, false_implies, true_implies, true_and]
    rw [Nat.mod_eq_of_lt (by omega)]
  · simp only [if_true, Bool.not_eq_false', canonical_iff, true_implies, Bool.true_eq_false, false_implies, and_true]

theorem checkEntryPoint_eq_ok_iff (s : State) (pa : PhysAddr) :
    checkEntryPoint s pa = .ok () ↔ TargetOk s pa ∧ TcsInactive s pa := by
  unfold checkEntryPoint TcsInactive
  simp only [unit_bind_eq_ok_iff, raiseIf_eq_ok_iff, badTarget_eq_false_iff, bne_eq_false_iff_eq, Config.tcsInactive]

theorem checkEntryPoint_error {s : State} {pa : PhysAddr} {f : Fault} (h : checkEntryPoint s pa = .error f) : f = gp0 := by
  unfold checkEntryPoint at h
  simp only [unit_bind_eq_error_iff, raiseIf_eq_error_iff] at h
  rcases h with ⟨_, h⟩ | ⟨_, _, h⟩ <;> exact h

/-! ## The whole check phase -/

/-- The check phase passes when each of its stages does. -/
theorem checkPhase_eq_ok_iff (s : State) (e : Entry) :
    checkPhase s = .ok e ↔
      DispatchOk s.lp ∧ SegmentsOk s.lp ∧ TcsPageOk s e.tcsPa ∧ TcsFieldsOk s e.tcsPa
      ∧ checkXsavePages s e.tcsPa 0 (ssaPages s e.tcsPa) = .ok e.xsavePages
      ∧ GprAreaOk s e.tcsPa e.gprPa ∧ TargetOk s e.tcsPa ∧ TcsInactive s e.tcsPa := by
  unfold checkPhase ssaPages
  simp only [unit_bind_eq_ok_iff, bind_eq_ok_iff (α := PhysAddr), bind_eq_ok_iff (α := List PhysAddr), checkEnclu_eq_ok_iff, checkSegments_eq_ok_iff, checkTcsPage_eq_ok_iff, checkTcsFields_eq_ok_iff,
    checkGprArea_eq_ok_iff, checkEntryPoint_eq_ok_iff, pure, Except.pure, Except.ok.injEq]
  constructor
  · rintro ⟨h1, h2, pa, h3, h4, pages, h5, g, h6, ⟨h7, h8⟩, rfl⟩
    exact ⟨h1, h2, h3, h4, h5, h6, h7, h8⟩
  · rintro ⟨h1, h2, h3, h4, h5, h6, h7, h8⟩
    exact ⟨h1, h2, _, h3, h4, _, h5, _, h6, ⟨h7, h8⟩, rfl⟩

/-- What ENCLU[EENTER] can do: refuse another leaf, fault, or commit. -/
theorem execEncluEenter_cases (s : State) :
    (s.lp.eax ≠ Config.eenterLeaf ∧ execEncluEenter s = .refused (.encluLeafNotSpecified s.lp.eax))
    ∨ (s.lp.eax = Config.eenterLeaf ∧ ∃ f, checkPhase s = .error f ∧ execEncluEenter s = .fault f)
    ∨ (s.lp.eax = Config.eenterLeaf ∧ ∃ e, checkPhase s = .ok e ∧ execEncluEenter s = .next (commit s e)) := by
  unfold execEncluEenter takeFault
  by_cases h : s.lp.eax = Config.eenterLeaf
  · rw [if_pos h]
    cases hc : checkPhase s with
    | error f => exact .inr (.inl ⟨h, f, rfl, rfl⟩)
    | ok e => exact .inr (.inr ⟨h, e, rfl, rfl⟩)
  · rw [if_neg h]
    exact .inl ⟨h, rfl⟩

theorem execEncluEenter_of_ok {s : State} {e : Entry} (hl : s.lp.eax = 2) (h : checkPhase s = .ok e) :
    execEncluEenter s = .next (commit s e) := by
  unfold execEncluEenter
  rw [if_pos (show s.lp.eax = Config.eenterLeaf from hl), h]

theorem execEncluEenter_of_error {s : State} {f : Fault} (hl : s.lp.eax = 2) (h : checkPhase s = .error f) :
    execEncluEenter s = .fault f := by
  unfold execEncluEenter
  rw [if_pos (show s.lp.eax = Config.eenterLeaf from hl), h]
  rfl

/-- If ENCLU[EENTER] answers a next state, it is the commit phase's of the entry that the check phase handed on. -/
theorem execEncluEenter_next {s t : State} (h : execEncluEenter s = .next t) :
    s.lp.eax = Config.eenterLeaf ∧ ∃ e, checkPhase s = .ok e ∧ t = commit s e := by
  rcases execEncluEenter_cases s with ⟨_, h'⟩ | ⟨_, f, _, h'⟩ | ⟨h1, e, he, h'⟩ <;> rw [h'] at h
  · exact absurd h (by simp)
  · exact absurd h (by simp)
  · exact ⟨h1, e, he, (Host.Outcome.next.inj h).symm⟩

end Sys2Proof.Machine
end

