-- ==== Sys2Proof/Laws/Memory.lean ====
section
/-! SUPPORT. The laws of memory: the canonical form is kept, a byte written is read back, a write leaves every other byte alone, and
the same for little-endian fields. -/

namespace Sys2Proof.Machine

/-! ## The canonical form -/

theorem Memory.wfAbove_cons (low : Option Nat) (a : Nat) (v : Byte) (rest : Memory) :
    Memory.wfAbove low ((a, v) :: rest) = true ↔
      (∀ l ∈ low, l < a) ∧ a < 2 ^ 64 ∧ v ≠ 0 ∧ Memory.wfAbove (some a) rest = true := by
  cases low <;> simp [Memory.wfAbove, and_assoc]

theorem Memory.wfAbove_weaken {low low' : Option Nat} {m : Memory} (h : Memory.wfAbove low m = true)
    (hl : ∀ l' ∈ low', ∃ l ∈ low, l' ≤ l) : Memory.wfAbove low' m = true := by
  cases m with
  | nil => simp [Memory.wfAbove]
  | cons c rest =>
    obtain ⟨a, v⟩ := c
    rw [Memory.wfAbove_cons] at h ⊢
    refine ⟨fun l' h' => ?_, h.2⟩
    obtain ⟨l, hl1, hl2⟩ := hl l' h'
    exact Nat.lt_of_le_of_lt hl2 (h.1 l hl1)

theorem Memory.setByte_wfAbove {low : Option Nat} {m : Memory} {a : Nat} {v : Byte} (h : Memory.wfAbove low m = true)
    (hl : ∀ l ∈ low, l < a) (ha : a < 2 ^ 64) : Memory.wfAbove low (Memory.setByte m a v) = true := by
  induction m generalizing low with
  | nil =>
    unfold Memory.setByte
    split
    · exact h
    · rw [Memory.wfAbove_cons]
      exact ⟨hl, ha, ‹_›, rfl⟩
  | cons c rest ih =>
    obtain ⟨b, w⟩ := c
    have hc := (Memory.wfAbove_cons _ _ _ _).1 h
    unfold Memory.setByte
    split
    · split
      · exact h
      · rw [Memory.wfAbove_cons, Memory.wfAbove_cons]
        exact ⟨hl, ha, ‹_›, by simpa using ‹_ < b›, hc.2⟩
    · split
      · subst_vars
        split
        · exact Memory.wfAbove_weaken hc.2.2.2 (fun l hl' => ⟨_, rfl, Nat.le_of_lt (hl l hl')⟩)
        · rw [Memory.wfAbove_cons]
          exact ⟨hl, ha, ‹_›, hc.2.2.2⟩
      · rw [Memory.wfAbove_cons]
        refine ⟨hc.1, hc.2.1, hc.2.2.1, ih hc.2.2.2 ?_⟩
        simp only [Option.mem_def, Option.some.injEq, forall_eq']
        omega

/-- Writing a byte keeps the canonical form. -/
theorem Memory.setByte_wf {m : Memory} (h : Memory.wf m = true) (pa : PhysAddr) (v : Byte) :
    Memory.wf (Memory.setByte m pa.toNat v) = true :=
  Memory.setByte_wfAbove h (by simp) pa.isLt

/-- Storing a field keeps the canonical form. -/
theorem Memory.writeLe_wf {m : Memory} (h : Memory.wf m = true) (pa : PhysAddr) (n v : Nat) :
    Memory.wf (Memory.writeLe m pa n v) = true := by
  induction n generalizing m pa v with
  | zero => exact h
  | succ n ih => exact ih (Memory.setByte_wf h pa _) _ _

/-- Storing a field of a structure keeps the canonical form. -/
theorem Memory.writeField_wf {m : Memory} (h : Memory.wf m = true) (pa : PhysAddr) (f : Config.Field) (v : Word) :
    Memory.wf (Memory.writeField m pa f v) = true := Memory.writeLe_wf h _ _ _

/-- The empty memory is in canonical form. -/
theorem Memory.wf_nil : Memory.wf [] = true := rfl

/-! ## One byte -/

/-- A write leaves every other byte alone, in any memory. -/
theorem Memory.byte_setByte_ne (m : Memory) {a b : Nat} (v : Byte) (h : b ≠ a) :
    Memory.byte (Memory.setByte m a v) b = Memory.byte m b := by
  induction m with
  | nil =>
    unfold Memory.setByte
    split
    · rfl
    · simp [Memory.byte, h]
  | cons c rest ih =>
    obtain ⟨x, w⟩ := c
    unfold Memory.setByte
    split
    · split
      · rfl
      · simp [Memory.byte, h]
    · split
      · subst_vars
        split <;> simp [Memory.byte, h]
      · simp only [Memory.byte, ih]

theorem Memory.byte_of_wfAbove {low : Nat} {m : Memory} {a : Nat} (h : Memory.wfAbove (some low) m = true) (ha : a ≤ low) :
    Memory.byte m a = 0 := by
  induction m generalizing low with
  | nil => rfl
  | cons c rest ih =>
    obtain ⟨x, w⟩ := c
    rw [Memory.wfAbove_cons] at h
    have hx : low < x := h.1 low rfl
    simp only [Memory.byte, if_neg (by omega : ¬a = x)]
    exact ih h.2.2.2 (by omega)

theorem Memory.byte_setByte_same_above {low : Option Nat} {m : Memory} (a : Nat) (v : Byte)
    (h : Memory.wfAbove low m = true) : Memory.byte (Memory.setByte m a v) a = v := by
  induction m generalizing low with
  | nil =>
    unfold Memory.setByte
    split
    · simp_all [Memory.byte]
    · simp [Memory.byte]
  | cons c rest ih =>
    obtain ⟨x, w⟩ := c
    rw [Memory.wfAbove_cons] at h
    unfold Memory.setByte
    split
    · split
      · simp only [Memory.byte, if_neg (by omega : ¬a = x)]
        rw [Memory.byte_of_wfAbove h.2.2.2 (by omega)]
        exact Eq.symm ‹v = 0›
      · simp [Memory.byte]
    · split
      · subst_vars
        split
        · rw [Memory.byte_of_wfAbove h.2.2.2 (Nat.le_refl _)]
          exact Eq.symm ‹v = 0›
        · simp [Memory.byte]
      · simp only [Memory.byte, if_neg (by omega : ¬a = x)]
        exact ih h.2.2.2

/-- A byte written is read back, in a memory in canonical form. -/
theorem Memory.byte_setByte_same {m : Memory} (h : Memory.wf m = true) (a : Nat) (v : Byte) :
    Memory.byte (Memory.setByte m a v) a = v := Memory.byte_setByte_same_above a v h

/-- A byte other than 0 that is written is read back in any memory. -/
theorem Memory.byte_setByte_same_of_ne (m : Memory) (a : Nat) {v : Byte} (hv : v ≠ 0) :
    Memory.byte (Memory.setByte m a v) a = v := by
  induction m with
  | nil =>
    rw [Memory.setByte, if_neg hv]
    simp [Memory.byte]
  | cons c rest ih =>
    obtain ⟨x, w⟩ := c
    unfold Memory.setByte
    simp only [if_neg hv]
    split
    · simp [Memory.byte]
    · split
      · simp [Memory.byte]
      · simp only [Memory.byte, if_neg (by omega : ¬a = x)]
        exact ih

/-! ## Fields -/

theorem one_add_ofNat (i : Nat) : (1 : BitVec 64) + BitVec.ofNat 64 i = BitVec.ofNat 64 (i + 1) := by
  rw [Nat.add_comm, BitVec.ofNat_add]
  rfl

/-- Storing a field leaves every byte outside it alone. -/
theorem Memory.byte_writeLe_of_outside (m : Memory) (pa : PhysAddr) (n v a : Nat)
    (h : ∀ i < n, a ≠ (pa + BitVec.ofNat 64 i).toNat) : Memory.byte (Memory.writeLe m pa n v) a = Memory.byte m a := by
  induction n generalizing m pa v with
  | zero => rfl
  | succ n ih =>
    unfold Memory.writeLe
    rw [ih]
    · exact Memory.byte_setByte_ne _ _ (by simpa using h 0 (by omega))
    · intro i hi
      have := h (i + 1) (by omega)
      rwa [BitVec.add_assoc, one_add_ofNat]

/-- Storing a field of a structure leaves every byte outside it alone. -/
theorem Memory.byte_writeField_of_outside (m : Memory) (pa : PhysAddr) (f : Config.Field) (v : Word) (a : Nat)
    (h : ∀ i < f.bytes, a ≠ (fieldAt pa f.offset + BitVec.ofNat 64 i).toNat) :
    Memory.byte (Memory.writeField m pa f v) a = Memory.byte m a :=
  Memory.byte_writeLe_of_outside m _ _ _ a h

/-- A field read depends on its own bytes alone. -/
theorem Memory.readLe_congr {m m' : Memory} (pa : PhysAddr) (n : Nat)
    (h : ∀ i < n, Memory.byte m' (pa + BitVec.ofNat 64 i).toNat = Memory.byte m (pa + BitVec.ofNat 64 i).toNat) :
    Memory.readLe m' pa n = Memory.readLe m pa n := by
  induction n generalizing pa with
  | zero => rfl
  | succ n ih =>
    unfold Memory.readLe
    rw [show Memory.byte m' pa.toNat = Memory.byte m pa.toNat by simpa using h 0 (by omega), ih]
    intro i hi
    have := h (i + 1) (by omega)
    rwa [BitVec.add_assoc, one_add_ofNat]

theorem Memory.readLe_lt (m : Memory) (pa : PhysAddr) (n : Nat) : Memory.readLe m pa n < 256 ^ n := by
  induction n generalizing pa with
  | zero => simp [Memory.readLe]
  | succ n ih =>
    have h1 := ih (pa + 1)
    have h2 := (Memory.byte m pa.toNat).isLt
    unfold Memory.readLe
    rw [Nat.pow_succ]
    omega

/-- A field stored is read back, in a memory in canonical form (R74, R75, R76). -/
theorem Memory.readLe_writeLe_same {m : Memory} (h : Memory.wf m = true) (pa : PhysAddr) (n v : Nat) (hn : n ≤ 2 ^ 64) :
    Memory.readLe (Memory.writeLe m pa n v) pa n = v % 256 ^ n := by
  induction n generalizing m pa v with
  | zero => simp [Memory.readLe, Nat.mod_one]
  | succ n ih =>
    unfold Memory.readLe Memory.writeLe
    rw [ih (Memory.setByte_wf h pa _) _ _ (by omega), Memory.byte_writeLe_of_outside, Memory.byte_setByte_same h]
    · rw [BitVec.toNat_ofNat, Nat.pow_succ' (m := 256)]
      exact Nat.mod_mul.symm
    · intro i hi heq
      have h1 : pa + 1 + BitVec.ofNat 64 i = pa := (BitVec.eq_of_toNat_eq heq).symm
      rw [BitVec.add_assoc, one_add_ofNat, add_eq_left] at h1
      have h3 := congrArg BitVec.toNat h1
      rw [BitVec.toNat_ofNat, Nat.mod_eq_of_lt (by omega)] at h3
      simp at h3

/-- A field of a structure stored is read back, at its width, in a memory in canonical form. -/
theorem Memory.readField_writeField_same {m : Memory} (h : Memory.wf m = true) (pa : PhysAddr) {f : Config.Field} (hf : f.bytes ≤ 8)
    (v : Word) : (Memory.readField (Memory.writeField m pa f v) pa f).toNat = v.toNat % 256 ^ f.bytes := by
  unfold Memory.readField Memory.writeField
  have h1 : 256 ^ f.bytes ≤ 256 ^ 8 := Nat.pow_le_pow_right (by omega) hf
  have h2 : v.toNat % 256 ^ f.bytes < 256 ^ f.bytes := Nat.mod_lt _ (Nat.pow_pos (by omega))
  rw [Memory.readLe_writeLe_same h _ _ _ (by omega), BitVec.toNat_ofNat, Nat.mod_eq_of_lt (by omega)]

/-- A field of a structure is as before when none of its bytes changes. -/
theorem Memory.readField_congr {m m' : Memory} (pa : PhysAddr) (f : Config.Field)
    (h : ∀ i < f.bytes, Memory.byte m' (fieldAt pa f.offset + BitVec.ofNat 64 i).toNat
      = Memory.byte m (fieldAt pa f.offset + BitVec.ofNat 64 i).toNat) :
    Memory.readField m' pa f = Memory.readField m pa f := by
  unfold Memory.readField
  rw [Memory.readLe_congr _ _ h]

/-! ## `MemRead` and `MemWrite` -/

/-- A read answers the bytes at the address it translates to, or the translation's fault. -/
theorem memRead_eq_ok_iff (s : State) (la : LinAddr) (n v : Nat) :
    memRead s la n = .ok v ↔ ∃ pa, Machine.translate s la .read = .ok pa ∧ v = Memory.readLe s.mem pa n := by
  unfold memRead
  cases Machine.translate s la .read <;> simp [eq_comm]

/-- A write stores at the address it translates to and changes nothing else, or raises the translation's fault. -/
theorem memWrite_eq_ok_iff (s t : State) (la : LinAddr) (n v : Nat) :
    memWrite s la n v = .ok t ↔
      ∃ pa, Machine.translate s la .readWrite = .ok pa ∧ t = { s with mem := Memory.writeLe s.mem pa n v } := by
  unfold memWrite
  cases Machine.translate s la .readWrite <;> simp [eq_comm]

/-- A write keeps the canonical form. -/
theorem memWrite_wf {s t : State} {la : LinAddr} {n v : Nat} (hs : Memory.wf s.mem = true) (h : memWrite s la n v = .ok t) :
    Memory.wf t.mem = true := by
  obtain ⟨pa, _, rfl⟩ := (memWrite_eq_ok_iff s t la n v).1 h
  exact Memory.writeLe_wf hs pa n v

end Sys2Proof.Machine
end

