-- ==== Sys2Proof/Laws/State.lean ====
section
/-! SUPPORT. One lemma per field per update of the state, true by rfl. -/

namespace Sys2Proof.Machine

/-! ## The commit phase: State -/

@[simp] theorem commit_lp (s : State) (e : Entry) : (commit s e).lp = lpAfter s e := rfl
@[simp] theorem commit_others (s : State) (e : Entry) : (commit s e).others = othersAfter s e := rfl
@[simp] theorem commit_order (s : State) (e : Entry) : (commit s e).order = s.order := rfl
@[simp] theorem commit_mem (s : State) (e : Entry) : (commit s e).mem = memAfter s e := by
  simp only [commit]
@[simp] theorem commit_epcm (s : State) (e : Entry) : (commit s e).epcm = s.epcm := rfl
@[simp] theorem commit_tcsLocks (s : State) (e : Entry) : (commit s e).tcsLocks = s.tcsLocks := rfl
@[simp] theorem commit_secsUses (s : State) (e : Entry) : (commit s e).secsUses = s.secsUses := rfl
@[simp] theorem commit_platform (s : State) (e : Entry) : (commit s e).platform = s.platform := rfl
@[simp] theorem commit_freeNext (s : State) (e : Entry) : (commit s e).freeNext = if optIn s e then s.freeNext else s.freeNext + 2 := rfl

/-! ## The commit phase: the executing logical processor -/

@[simp] theorem lpAfter_id (s : State) (e : Entry) : (lpAfter s e).id = s.lp.id := rfl
@[simp] theorem lpAfter_gpr (s : State) (e : Entry) : (lpAfter s e).gpr = gprAfter s e := rfl
@[simp] theorem lpAfter_rip (s : State) (e : Entry) : (lpAfter s e).rip = tmpTarget s e.tcsPa := rfl
@[simp] theorem lpAfter_rflags (s : State) (e : Entry) : (lpAfter s e).rflags = rflagsAfterEntry s.lp.rflags (optIn s e) := rfl
@[simp] theorem lpAfter_efer (s : State) (e : Entry) : (lpAfter s e).efer = s.lp.efer := rfl
@[simp] theorem lpAfter_cr4 (s : State) (e : Entry) : (lpAfter s e).cr4 = s.lp.cr4 := rfl
@[simp] theorem lpAfter_xcr0 (s : State) (e : Entry) : (lpAfter s e).xcr0 = xcr0After s e := rfl
@[simp] theorem lpAfter_perfGlobalStatus (s : State) (e : Entry) : (lpAfter s e).perfGlobalStatus = perfGlobalStatusAfter s e := rfl
@[simp] theorem lpAfter_mtfControl (s : State) (e : Entry) : (lpAfter s e).mtfControl = s.lp.mtfControl := rfl
@[simp] theorem lpAfter_cs (s : State) (e : Entry) : (lpAfter s e).cs = s.lp.cs := rfl
@[simp] theorem lpAfter_ss (s : State) (e : Entry) : (lpAfter s e).ss = s.lp.ss := rfl
@[simp] theorem lpAfter_ds (s : State) (e : Entry) : (lpAfter s e).ds = s.lp.ds := rfl
@[simp] theorem lpAfter_es (s : State) (e : Entry) : (lpAfter s e).es = s.lp.es := rfl
@[simp] theorem lpAfter_fs (s : State) (e : Entry) : (lpAfter s e).fs = fsAfter s e := rfl
@[simp] theorem lpAfter_gs (s : State) (e : Entry) : (lpAfter s e).gs = gsAfter s e := rfl
@[simp] theorem lpAfter_dbg (s : State) (e : Entry) : (lpAfter s e).dbg = dbgAfter s e := rfl
@[simp] theorem lpAfter_pmu (s : State) (e : Entry) : (lpAfter s e).pmu = pmuAfter s e := rfl
@[simp] theorem lpAfter_pend (s : State) (e : Entry) : (lpAfter s e).pend = pendAfter s e := rfl
@[simp] theorem lpAfter_linearContext (s : State) (e : Entry) : (lpAfter s e).linearContext = [] := rfl
@[simp] theorem lpAfter_cr (s : State) (e : Entry) : (lpAfter s e).cr = crAfter s e := rfl
@[simp] theorem lpAfter_encluPrecheck (s : State) (e : Entry) : (lpAfter s e).encluPrecheck = s.lp.encluPrecheck := rfl

/-! ## The commit phase: the general registers -/

@[simp] theorem gprAfter_rax (s : State) (e : Entry) : (gprAfter s e).rax = (tcsAt s e.tcsPa).cssa := rfl
@[simp] theorem gprAfter_rcx (s : State) (e : Entry) : (gprAfter s e).rcx = nextRip s := rfl
@[simp] theorem gprAfter_rdx (s : State) (e : Entry) : (gprAfter s e).rdx = s.lp.gpr.rdx := rfl
@[simp] theorem gprAfter_rbx (s : State) (e : Entry) : (gprAfter s e).rbx = s.lp.gpr.rbx := rfl
@[simp] theorem gprAfter_rsp (s : State) (e : Entry) : (gprAfter s e).rsp = s.lp.gpr.rsp := rfl
@[simp] theorem gprAfter_rbp (s : State) (e : Entry) : (gprAfter s e).rbp = s.lp.gpr.rbp := rfl
@[simp] theorem gprAfter_rsi (s : State) (e : Entry) : (gprAfter s e).rsi = s.lp.gpr.rsi := rfl
@[simp] theorem gprAfter_rdi (s : State) (e : Entry) : (gprAfter s e).rdi = s.lp.gpr.rdi := rfl
@[simp] theorem gprAfter_r8 (s : State) (e : Entry) : (gprAfter s e).r8 = s.lp.gpr.r8 := rfl
@[simp] theorem gprAfter_r9 (s : State) (e : Entry) : (gprAfter s e).r9 = s.lp.gpr.r9 := rfl
@[simp] theorem gprAfter_r10 (s : State) (e : Entry) : (gprAfter s e).r10 = s.lp.gpr.r10 := rfl
@[simp] theorem gprAfter_r11 (s : State) (e : Entry) : (gprAfter s e).r11 = s.lp.gpr.r11 := rfl
@[simp] theorem gprAfter_r12 (s : State) (e : Entry) : (gprAfter s e).r12 = s.lp.gpr.r12 := rfl
@[simp] theorem gprAfter_r13 (s : State) (e : Entry) : (gprAfter s e).r13 = s.lp.gpr.r13 := rfl
@[simp] theorem gprAfter_r14 (s : State) (e : Entry) : (gprAfter s e).r14 = s.lp.gpr.r14 := rfl
@[simp] theorem gprAfter_r15 (s : State) (e : Entry) : (gprAfter s e).r15 = s.lp.gpr.r15 := rfl

/-! ## The commit phase: the `CR_` registers -/

@[simp] theorem crAfter_enclaveMode (s : State) (e : Entry) : (crAfter s e).enclaveMode = true := rfl
@[simp] theorem crAfter_activeSecs (s : State) (e : Entry) : (crAfter s e).activeSecs = tmpSecs s e.tcsPa := rfl
@[simp] theorem crAfter_elrangeBase (s : State) (e : Entry) : (crAfter s e).elrangeBase = (secsAt s e.tcsPa).baseaddr := rfl
@[simp] theorem crAfter_elrangeSize (s : State) (e : Entry) : (crAfter s e).elrangeSize = (secsAt s e.tcsPa).size := rfl
@[simp] theorem crAfter_tcsPa (s : State) (e : Entry) : (crAfter s e).tcsPa = e.tcsPa := rfl
@[simp] theorem crAfter_tcsLa (s : State) (e : Entry) : (crAfter s e).tcsLa = truncXlen s.lp.mode64 s.lp.gpr.rbx := rfl
@[simp] theorem crAfter_saveFs (s : State) (e : Entry) : (crAfter s e).saveFs = s.lp.fs := rfl
@[simp] theorem crAfter_saveGs (s : State) (e : Entry) : (crAfter s e).saveGs = s.lp.gs := rfl
@[simp] theorem crAfter_saveXcr0 (s : State) (e : Entry) : (crAfter s e).saveXcr0 = if s.lp.osxsave then s.lp.xcr0 else s.lp.cr.saveXcr0 := rfl
@[simp] theorem crAfter_xsavePages (s : State) (e : Entry) : (crAfter s e).xsavePages = xsavePagesAfter s.lp.cr.xsavePages e.xsavePages := rfl
@[simp] theorem crAfter_gprPa (s : State) (e : Entry) : (crAfter s e).gprPa = e.gprPa := rfl
@[simp] theorem crAfter_dbgOptIn (s : State) (e : Entry) : (crAfter s e).dbgOptIn = optIn s e := rfl
@[simp] theorem crAfter_saveTf (s : State) (e : Entry) : (crAfter s e).saveTf = if optIn s e then s.lp.cr.saveTf else s.lp.tf := rfl

/-! ## The rebuilt segment registers -/

@[simp] theorem swappedSegment_selector (ds : Segment) (base : LinAddr) (limit : BitVec 32) :
    (swappedSegment ds base limit).selector = Config.swapSelector := rfl
@[simp] theorem swappedSegment_base (ds : Segment) (base : LinAddr) (limit : BitVec 32) :
    (swappedSegment ds base limit).base = base := rfl
@[simp] theorem swappedSegment_limit (ds : Segment) (base : LinAddr) (limit : BitVec 32) :
    (swappedSegment ds base limit).limit = limit := rfl
@[simp] theorem swappedSegment_ar_type (ds : Segment) (base : LinAddr) (limit : BitVec 32) :
    (swappedSegment ds base limit).ar.type = typeWithW Config.swapType ds.ar.w := rfl
@[simp] theorem swappedSegment_ar_s (ds : Segment) (base : LinAddr) (limit : BitVec 32) :
    (swappedSegment ds base limit).ar.s = true := rfl
@[simp] theorem swappedSegment_ar_dpl (ds : Segment) (base : LinAddr) (limit : BitVec 32) :
    (swappedSegment ds base limit).ar.dpl = ds.ar.dpl := rfl
@[simp] theorem swappedSegment_ar_g (ds : Segment) (base : LinAddr) (limit : BitVec 32) :
    (swappedSegment ds base limit).ar.g = true := rfl
@[simp] theorem swappedSegment_ar_b (ds : Segment) (base : LinAddr) (limit : BitVec 32) :
    (swappedSegment ds base limit).ar.b = true := rfl
@[simp] theorem swappedSegment_ar_p (ds : Segment) (base : LinAddr) (limit : BitVec 32) :
    (swappedSegment ds base limit).ar.p = true := rfl
@[simp] theorem swappedSegment_ar_avl (ds : Segment) (base : LinAddr) (limit : BitVec 32) :
    (swappedSegment ds base limit).ar.avl = ds.ar.avl := rfl
@[simp] theorem swappedSegment_ar_l (ds : Segment) (base : LinAddr) (limit : BitVec 32) :
    (swappedSegment ds base limit).ar.l = ds.ar.l := rfl
@[simp] theorem swappedSegment_ar_unusable (ds : Segment) (base : LinAddr) (limit : BitVec 32) :
    (swappedSegment ds base limit).ar.unusable = false := rfl

/-! ## Placing an instruction: what `selectEenter` writes -/

@[simp] theorem selectEenter_others (s : State) : (selectEenter s).others = s.others := rfl
@[simp] theorem selectEenter_order (s : State) : (selectEenter s).order = s.order := rfl
@[simp] theorem selectEenter_mem (s : State) : (selectEenter s).mem = s.mem := rfl
@[simp] theorem selectEenter_epcm (s : State) : (selectEenter s).epcm = s.epcm := rfl
@[simp] theorem selectEenter_tcsLocks (s : State) : (selectEenter s).tcsLocks = s.tcsLocks := rfl
@[simp] theorem selectEenter_secsUses (s : State) : (selectEenter s).secsUses = s.secsUses := rfl
@[simp] theorem selectEenter_platform_laWidth (s : State) : (selectEenter s).platform.laWidth = s.platform.laWidth := rfl
@[simp] theorem selectEenter_platform_pageMap (s : State) : (selectEenter s).platform.pageMap = s.platform.pageMap := rfl
@[simp] theorem selectEenter_platform_unlisted (s : State) : (selectEenter s).platform.unlisted = s.platform.unlisted := rfl
@[simp] theorem selectEenter_platform_epc (s : State) : (selectEenter s).platform.epc = s.platform.epc := rfl
@[simp] theorem selectEenter_platform_xsaveSizes (s : State) : (selectEenter s).platform.xsaveSizes = s.platform.xsaveSizes := rfl
@[simp] theorem selectEenter_platform_ssaLoopInclusive (s : State) : (selectEenter s).platform.ssaLoopInclusive = s.platform.ssaLoopInclusive := rfl
@[simp] theorem selectEenter_platform_pendOrder (s : State) : (selectEenter s).platform.pendOrder = s.platform.pendOrder := rfl
@[simp] theorem selectEenter_platform_siblings (s : State) : (selectEenter s).platform.siblings = s.platform.siblings := rfl
@[simp] theorem selectEenter_platform_tcsLayout (s : State) : (selectEenter s).platform.tcsLayout = s.platform.tcsLayout := rfl
@[simp] theorem selectEenter_platform_secsLayout (s : State) : (selectEenter s).platform.secsLayout = s.platform.secsLayout := rfl
@[simp] theorem selectEenter_platform_gprsgxSize (s : State) : (selectEenter s).platform.gprsgxSize = s.platform.gprsgxSize := rfl
@[simp] theorem selectEenter_platform_gprsgxLayout (s : State) : (selectEenter s).platform.gprsgxLayout = s.platform.gprsgxLayout := rfl
@[simp] theorem selectEenter_platform_encluBytes (s : State) : (selectEenter s).platform.encluBytes = Config.defaultEncluBytes := rfl
@[simp] theorem selectEenter_freeNext (s : State) : (selectEenter s).freeNext = s.freeNext := rfl
@[simp] theorem selectEenter_lp_id (s : State) : (selectEenter s).lp.id = s.lp.id := rfl
@[simp] theorem selectEenter_lp_rip (s : State) : (selectEenter s).lp.rip = s.lp.rip := rfl
@[simp] theorem selectEenter_lp_rflags (s : State) : (selectEenter s).lp.rflags = s.lp.rflags := rfl
@[simp] theorem selectEenter_lp_efer (s : State) : (selectEenter s).lp.efer = s.lp.efer := rfl
@[simp] theorem selectEenter_lp_cr4 (s : State) : (selectEenter s).lp.cr4 = s.lp.cr4 := rfl
@[simp] theorem selectEenter_lp_xcr0 (s : State) : (selectEenter s).lp.xcr0 = s.lp.xcr0 := rfl
@[simp] theorem selectEenter_lp_perfGlobalStatus (s : State) : (selectEenter s).lp.perfGlobalStatus = s.lp.perfGlobalStatus := rfl
@[simp] theorem selectEenter_lp_mtfControl (s : State) : (selectEenter s).lp.mtfControl = s.lp.mtfControl := rfl
@[simp] theorem selectEenter_lp_cs (s : State) : (selectEenter s).lp.cs = s.lp.cs := rfl
@[simp] theorem selectEenter_lp_ss (s : State) : (selectEenter s).lp.ss = s.lp.ss := rfl
@[simp] theorem selectEenter_lp_ds (s : State) : (selectEenter s).lp.ds = s.lp.ds := rfl
@[simp] theorem selectEenter_lp_es (s : State) : (selectEenter s).lp.es = s.lp.es := rfl
@[simp] theorem selectEenter_lp_fs (s : State) : (selectEenter s).lp.fs = s.lp.fs := rfl
@[simp] theorem selectEenter_lp_gs (s : State) : (selectEenter s).lp.gs = s.lp.gs := rfl
@[simp] theorem selectEenter_lp_dbg (s : State) : (selectEenter s).lp.dbg = s.lp.dbg := rfl
@[simp] theorem selectEenter_lp_pmu (s : State) : (selectEenter s).lp.pmu = s.lp.pmu := rfl
@[simp] theorem selectEenter_lp_linearContext (s : State) : (selectEenter s).lp.linearContext = s.lp.linearContext := rfl
@[simp] theorem selectEenter_lp_cr (s : State) : (selectEenter s).lp.cr = s.lp.cr := rfl
@[simp] theorem selectEenter_lp_encluPrecheck (s : State) : (selectEenter s).lp.encluPrecheck = s.lp.encluPrecheck := rfl
@[simp] theorem selectEenter_lp_pend_boundary (s : State) : (selectEenter s).lp.pend.boundary = false := rfl

/-- The leaf selected is EENTER. -/
@[simp] theorem selectEenter_eax (s : State) : (selectEenter s).lp.eax = Config.eenterLeaf := by
  simp only [LogicalProcessor.eax, selectEenter]
  exact BitVec.setWidth_append_eq_right

/-! ## The end of a step -/

/-- What `advance` can do: nothing, drop a number that names no logical processor, or let one of the others execute next. -/
theorem advance_cases (s : State) :
    advance s = s ∨ (∃ rest, advance s = { s with order := rest })
    ∨ ∃ n t rest, s.others[n]? = some t ∧ advance s = { s with lp := t, others := s.others.set n s.lp, order := rest } := by
  unfold advance
  split
  · exact .inl rfl
  · split
    · exact .inr (.inl ⟨_, rfl⟩)
    · exact .inr (.inr ⟨_, _, _, ‹_›, rfl⟩)

@[simp] theorem advance_mem (s : State) : (advance s).mem = s.mem := by
  unfold advance
  split
  · rfl
  · split <;> rfl

@[simp] theorem advance_epcm (s : State) : (advance s).epcm = s.epcm := by
  unfold advance
  split
  · rfl
  · split <;> rfl

@[simp] theorem advance_tcsLocks (s : State) : (advance s).tcsLocks = s.tcsLocks := by
  unfold advance
  split
  · rfl
  · split <;> rfl

@[simp] theorem advance_secsUses (s : State) : (advance s).secsUses = s.secsUses := by
  unfold advance
  split
  · rfl
  · split <;> rfl

@[simp] theorem advance_platform (s : State) : (advance s).platform = s.platform := by
  unfold advance
  split
  · rfl
  · split <;> rfl

@[simp] theorem advance_freeNext (s : State) : (advance s).freeNext = s.freeNext := by
  unfold advance
  split
  · rfl
  · split <;> rfl

theorem set_perm {α : Type} (l : List α) (n : Nat) (x y : α) (h : l[n]? = some y) : (y :: l.set n x).Perm (x :: l) := by
  induction l generalizing n with
  | nil => simp at h
  | cons a as ih =>
    cases n with
    | zero =>
      simp only [List.getElem?_cons_zero, Option.some.injEq] at h
      subst h
      exact List.Perm.swap _ _ _
    | succ n =>
      simp only [List.getElem?_cons_succ] at h
      rw [List.set_cons_succ]
      exact ((List.Perm.swap _ _ _).trans ((ih n h).cons a)).trans (List.Perm.swap _ _ _)

/-- `advance` keeps the logical processors: it only changes which of them executes. -/
theorem advance_perm (s : State) : ((advance s).lp :: (advance s).others).Perm (s.lp :: s.others) := by
  rcases advance_cases s with h | ⟨rest, h⟩ | ⟨n, t, rest, hn, h⟩
  · rw [h]
  · rw [h]
  · rw [h]
    exact set_perm _ _ _ _ hn

/-- With an empty order the same logical processor goes on. -/
theorem advance_of_order_nil {s : State} (h : s.order = []) : advance s = s := by
  unfold advance
  rw [h]

end Sys2Proof.Machine
end

