-- ==== Sys2Proof/Laws/Step.lean ====
section
/-! SUPPORT. What an entry does to memory, what it keeps for the platform, and what a step can do. -/

namespace Sys2Proof.Machine

open Sys2Proof.Safety

@[simp] theorem exec_encluEenter (s : State) : exec .encluEenter s = execEncluEenter s := rfl

/-! ## The four stores -/

/-- An entry keeps the canonical form of memory. -/
theorem memAfter_wf {s : State} (h : Memory.wf s.mem = true) (e : Entry) : Memory.wf (memAfter s e) = true :=
  Memory.writeField_wf (Memory.writeField_wf (Memory.writeField_wf (Memory.writeField_wf h _ _ _) _ _ _) _ _ _) _ _ _

theorem not_storedAt_iff (pa : PhysAddr) (f : Config.Field) (a : Nat) :
    ¬StoredAt pa f a ↔ ∀ i < f.bytes, a ≠ (fieldAt pa f.offset + BitVec.ofNat 64 i).toNat := by
  simp [StoredAt]

/-- An entry leaves every byte outside its four stores alone. -/
theorem byte_memAfter_of_outside (s : State) (e : Entry) {a : Nat} (h : ¬EntryStores s.platform e.tcsPa e.gprPa a) :
    Memory.byte (memAfter s e) a = Memory.byte s.mem a := by
  simp only [EntryStores, not_or, not_storedAt_iff] at h
  unfold memAfter
  simp only [Memory.byte_writeField_of_outside _ _ _ _ _ h.2.2.2, Memory.byte_writeField_of_outside _ _ _ _ _ h.2.2.1,
    Memory.byte_writeField_of_outside _ _ _ _ _ h.2.1, Memory.byte_writeField_of_outside _ _ _ _ _ h.1]

/-! ## Steps -/

@[simp] theorem finishStep_next (t : State) : finishStep (.next t) = .next (advance t) := rfl
@[simp] theorem finishStep_fault (f : Fault) : finishStep (.fault f) = .fault f := rfl
@[simp] theorem finishStep_refused (r : Refusal) : finishStep (.refused r) = .refused r := rfl

/-- If a step's end answers a next state, the instruction did. -/
theorem finishStep_eq_next {o : Host.Outcome State Fault Refusal} {t : State} (h : finishStep o = .next t) :
    ∃ t', o = .next t' ∧ t = advance t' := by
  cases o with
  | next t' => exact ⟨t', rfl, (Host.Outcome.next.inj h).symm⟩
  | fault f => exact absurd h (by simp)
  | refused r => exact absurd h (by simp)

/-- If a step answers a next state, no event was due, and the instruction executed was an ENCLU[EENTER] that passed every check: the next
state is its commit phase's, with the next logical processor in its place. -/
theorem step_next {s t : State} (h : step s = .next t) :
    dueEvent s = none ∧ s.lp.eax = Config.eenterLeaf ∧ ∃ e, checkPhase s = .ok e ∧ t = advance (commit s e) := by
  unfold step at h
  split at h
  · exact absurd h (by simp [takeFault])
  · rename_i hd
    refine ⟨hd, ?_⟩
    split at h
    · exact absurd h (by simp [takeFault])
    · split at h
      · exact absurd h (by simp)
      · rename_i i _ _
        cases i
        obtain ⟨t', ht', rfl⟩ := finishStep_eq_next h
        obtain ⟨h1, e, he, rfl⟩ := execEncluEenter_next ht'
        exact ⟨h1, e, he, rfl⟩

end Sys2Proof.Machine
end

