-- ==== Sys2Proof/Laws/Entry.lean ====
section
/-! SUPPORT. The conditions of an entry as one fact about the check phase, and where its pages and stores lie: facts the statements about a
successful entry rest on. -/

namespace Sys2Proof.Machine

open Sys2Proof.Safety

/-! ## The conditions and the check phase -/

/-- The conditions of R265 are what the check phase checks. -/
theorem checkPhase_of_enterable {s : State} {pa g : PhysAddr} (h : Enterable s pa g) :
    ∃ pages, checkXsavePages s pa 0 (ssaPages s pa) = .ok pages
      ∧ checkPhase s = .ok { tcsPa := pa, xsavePages := pages, gprPa := g } := by
  obtain ⟨pages, hp⟩ := (checkXsavePages_ok_iff s pa 0 (ssaPages s pa)).2 (fun i hi => by simpa using h.xsave i hi)
  exact ⟨pages, hp, (checkPhase_eq_ok_iff _ _).2
    ⟨h.dispatch, h.segments, h.page, h.fields, hp, h.gpr, h.target, h.inactive⟩⟩

/-- A check phase that passes has found the conditions of R265. -/
theorem enterable_of_checkPhase {s : State} {e : Entry} (hl : s.lp.eax = 2) (h : checkPhase s = .ok e) :
    Enterable s e.tcsPa e.gprPa := by
  obtain ⟨h1, h2, h3, h4, h5, h6, h7, h8⟩ := (checkPhase_eq_ok_iff _ _).1 h
  have hx : XsavePagesOk s e.tcsPa := fun n hn => by
    simpa using (checkXsavePages_ok_iff s e.tcsPa 0 (ssaPages s e.tcsPa)).1 ⟨_, h5⟩ n hn
  exact { leaf := hl, dispatch := h1, segments := h2, page := h3, fields := h4, xsave := hx, gpr := h6, target := h7, inactive := h8 }

/-! ## Addresses within a page -/

theorem toNat_add_ofNat_of_lt {a : Word} {k : Nat} (h : a.toNat % 4096 + k < 4096) :
    (a + BitVec.ofNat 64 k).toNat = a.toNat + k := by
  have := a.isLt
  rw [BitVec.toNat_add, BitVec.toNat_ofNat]
  omega

/-- A translation that succeeds gives the address in a frame at the offset of the linear address. -/
theorem translate_eq_ok {s : State} {la : LinAddr} {acc : Access} {pa : PhysAddr} (h : Machine.translate s la acc = .ok pa) :
    ∃ frame, translatePage s la acc = .ok frame ∧ pa = physAt frame la := by
  unfold Machine.translate at h
  split at h
  · rename_i frame hf
    exact ⟨frame, hf, (Except.ok.inj h).symm⟩
  · cases h

/-- What the paging structures find for a page they find at each of its addresses. -/
theorem walk_eq_ok_iff (p : Platform) (la : LinAddr) (acc : Access) (frame : PageNumber) :
    walk p la acc = .ok frame ↔ (mappingOf p (pageNumber la)).answer acc = .frame frame := by
  unfold walk
  cases (mappingOf p (pageNumber la)).answer acc <;> simp

/-- A page that translates does so at each of its addresses. -/
theorem translatePage_of_samePage {s : State} {la la' : LinAddr} {acc : Access} {frame : PageNumber}
    (h : translatePage s la acc = .ok frame) (hp : pageNumber la' = pageNumber la) : translatePage s la' acc = .ok frame := by
  unfold translatePage at h ⊢
  rw [hp]
  split at h
  · exact h
  · rw [walk_eq_ok_iff] at h ⊢
    rwa [hp]

/-- The translation of an address further on in the same page. -/
theorem translate_add {s : State} {la : LinAddr} {acc : Access} {pa : PhysAddr} {k : Nat}
    (h : Machine.translate s la acc = .ok pa) (hk : la.toNat % 4096 + k < 4096) :
    Machine.translate s (la + BitVec.ofNat 64 k) acc = .ok (pa + BitVec.ofNat 64 k) := by
  obtain ⟨frame, hf, rfl⟩ := translate_eq_ok h
  have hn : pageNumber (la + BitVec.ofNat 64 k) = pageNumber la := BitVec.eq_of_toNat_eq (by
    rw [pageNumber_toNat, pageNumber_toNat, toNat_add_ofNat_of_lt hk]
    omega)
  unfold Machine.translate
  rw [translatePage_of_samePage hf hn]
  simp only [Except.ok.injEq]
  apply BitVec.eq_of_toNat_eq
  rw [physAt_toNat, toNat_add_ofNat_of_lt hk, toNat_add_ofNat_of_lt (by rw [physAt_toNat]; omega), physAt_toNat]
  omega

/-! ## Where the TCS and the GPR area lie -/

/-- The TCS is page aligned physically (R126). -/
theorem tcsPa_aligned {s : State} {pa : PhysAddr} (h : TcsPageOk s pa) : Aligned4K pa := by
  obtain ⟨frame, _, rfl⟩ := translate_eq_ok h.2.1.1
  have h1 : (tcsLinear s.lp).toNat % 4096 = 0 := h.1
  show (physAt frame (tcsLinear s.lp)).toNat % 4096 = 0
  rw [physAt_toNat]
  omega

theorem frameBytes_toNat (s : State) (pa : PhysAddr) : (frameBytes s pa).toNat = 4096 * (secsAt s pa).ssaframesize.toNat % 2 ^ 64 := by
  simp only [frameBytes, Config.pageSize, BitVec.toNat_mul, BitVec.toNat_ofNat]

/-- The frame starts at a page when BASEADDR and OSSA do (R149). -/
theorem tmpSsa_aligned {s : State} {pa : PhysAddr} (hb : BaseAligned s pa) (ho : Aligned4K (tcsAt s pa).ossa) :
    Aligned4K (tmpSsa s pa) := by
  simp only [Aligned4K, tmpSsa, truncXlen_toNat, BitVec.toNat_add, BitVec.toNat_mul, frameBytes_toNat] at hb ho ⊢
  have hq : 4096 * (secsAt s pa).ssaframesize.toNat * (tcsAt s pa).cssa.toNat % 4096 = 0 := by
    rw [Nat.mul_assoc, Nat.mul_mod_right]
  cases s.lp.mode64 <;> simp <;> omega

/-- The GPR area ends where the frame does, at the end of a page, so it lies in one page (R155). -/
theorem tmpGpr_offset {s : State} {pa : PhysAddr} (hs : 1 ≤ s.platform.gprsgxSize) (hs' : s.platform.gprsgxSize ≤ 4096)
    (hb : BaseAligned s pa) (ho : Aligned4K (tcsAt s pa).ossa) :
    (tmpGpr s pa).toNat % 4096 = 4096 - s.platform.gprsgxSize := by
  have ha : (tmpSsa s pa).toNat % 4096 = 0 := tmpSsa_aligned hb ho
  have h1 := (tmpSsa s pa).isLt
  simp only [tmpGpr, truncXlen_toNat, BitVec.toNat_add, BitVec.toNat_sub, frameBytes_toNat, BitVec.toNat_ofNat]
  cases s.lp.mode64 <;> simp <;> omega

/-- The same of its physical address. -/
theorem gprPa_offset {s : State} {pa g : PhysAddr} (hs : 1 ≤ s.platform.gprsgxSize) (hs' : s.platform.gprsgxSize ≤ 4096)
    (h : GprAreaOk s pa g) (hb : BaseAligned s pa) (ho : Aligned4K (tcsAt s pa).ossa) :
    g.toNat % 4096 = 4096 - s.platform.gprsgxSize := by
  obtain ⟨frame, _, rfl⟩ := translate_eq_ok h.1.1
  have := tmpGpr_offset hs hs' hb ho
  rw [physAt_toNat]
  omega

/-- Pages of different types are different pages. -/
theorem page_ne_of_pt_ne {s : State} {a b : PhysAddr} (h : (epcmAt s a).pt ≠ (epcmAt s b).pt) :
    a.toNat / 4096 ≠ b.toNat / 4096 := by
  intro he
  have hp : pageNumber a = pageNumber b := BitVec.eq_of_toNat_eq (by rw [pageNumber_toNat, pageNumber_toNat, he])
  exact h (by unfold epcmAt; rw [hp])

/-- A byte of a field that lies within its page. -/
theorem storedAt_toNat {b : Word} {f : Config.Field} {a : Nat} (hk : b.toNat % 4096 + f.offset + f.bytes ≤ 4096) (h : StoredAt b f a) :
    ∃ i < f.bytes, a = b.toNat + f.offset + i := by
  obtain ⟨i, hi, rfl⟩ := h
  refine ⟨i, hi, ?_⟩
  have h1 := toNat_add_ofNat_of_lt (a := b) (k := f.offset) (by omega)
  unfold fieldAt
  rw [toNat_add_ofNat_of_lt (k := i) (by omega), h1]

/-- The bytes an entry stores to lie in the TCS's page, in STATE or in AEP, or in the GPR area's. -/
theorem entryStores_in_pages {p : Platform} (hl : LayoutOk p) {pa g : PhysAddr} (hp : Aligned4K pa)
    (hg : g.toNat % 4096 = 4096 - p.gprsgxSize) {a : Nat} (h : EntryStores p pa g a) :
    (a / 4096 = pa.toNat / 4096
      ∧ ((p.tcsLayout.state.offset ≤ a % 4096 ∧ a % 4096 < p.tcsLayout.state.offset + p.tcsLayout.state.bytes)
        ∨ (p.tcsLayout.aep.offset ≤ a % 4096 ∧ a % 4096 < p.tcsLayout.aep.offset + p.tcsLayout.aep.bytes)))
    ∨ a / 4096 = g.toNat / 4096 := by
  obtain ⟨⟨⟨⟨_, hs⟩, _⟩, ⟨⟨_, ha⟩, _⟩, _⟩, _, hz, hr, hb, _⟩ := hl
  simp only [Aligned4K] at hp
  rcases h with h | h | h | h
  · obtain ⟨i, hi, rfl⟩ := storedAt_toNat (by omega) h
    omega
  · obtain ⟨i, hi, rfl⟩ := storedAt_toNat (by omega) h
    omega
  · obtain ⟨i, hi, rfl⟩ := storedAt_toNat (by simp only [Config.GprsgxLayout.uRspField]; omega) h
    simp only [Config.GprsgxLayout.uRspField] at hi ⊢
    omega
  · obtain ⟨i, hi, rfl⟩ := storedAt_toNat (by simp only [Config.GprsgxLayout.uRbpField]; omega) h
    simp only [Config.GprsgxLayout.uRbpField] at hi ⊢
    omega

/-- An entry leaves every byte outside the pages of the TCS and of the GPR area alone. -/
theorem byte_memAfter_of_otherPage {s : State} (hl : LayoutOk s.platform) {pa g : PhysAddr} (hp : Aligned4K pa)
    (hg : g.toNat % 4096 = 4096 - s.platform.gprsgxSize) (pages : List PhysAddr) {a : Nat} (h1 : a / 4096 ≠ pa.toNat / 4096)
    (h2 : a / 4096 ≠ g.toNat / 4096) :
    Memory.byte (memAfter s { tcsPa := pa, xsavePages := pages, gprPa := g }) a = Memory.byte s.mem a := by
  refine byte_memAfter_of_outside s _ fun hs => ?_
  rcases entryStores_in_pages hl hp hg hs with h | h
  · exact h1 h.1
  · exact h2 h

/-! ## The instruction bytes placed by `withFetchWord` -/

theorem ensureReadable_lp (s : State) (la : LinAddr) : (ensureReadable s la).lp = s.lp := by
  unfold ensureReadable
  split <;> rfl

theorem ensureReadable_mem (s : State) (la : LinAddr) : (ensureReadable s la).mem = s.mem := by
  unfold ensureReadable
  split <;> rfl

/-- After `ensureReadable` the address can be read. -/
theorem translatePage_ensureReadable (s : State) (la : LinAddr) :
    ∃ frame, translatePage (ensureReadable s la) la .read = .ok frame := by
  unfold ensureReadable Machine.translate
  cases h : translatePage s la .read with
  | ok frame => exact ⟨frame, by simpa using h⟩
  | error f =>
    unfold translatePage at h ⊢
    split at h
    · cases h
    · exact ⟨pageNumber la, by
        simp only [‹cachedFrame _ _ _ = none›]
        rw [walk_eq_ok_iff]
        simp [mappingOf, pageMapping, Mapping.answer, mapTo]⟩

/-- `ensureReadable` leaves every page that could be read where it was. -/
theorem translatePage_ensureReadable_keep {s : State} {la : LinAddr} {frame : PageNumber} (la' : LinAddr)
    (h : translatePage s la .read = .ok frame) : translatePage (ensureReadable s la') la .read = .ok frame := by
  unfold ensureReadable Machine.translate
  cases h' : translatePage s la' .read with
  | ok frame' => exact h
  | error f =>
    by_cases hp : pageNumber la' = pageNumber la
    · rw [translatePage_of_samePage h hp] at h'
      cases h'
    · unfold translatePage walk mappingOf at h ⊢
      simp only [pageMapping, if_neg hp]
      exact h

theorem ensureReadable_encluBytes (s : State) (la : LinAddr) :
    (ensureReadable s la).platform.encluBytes = s.platform.encluBytes := by
  unfold ensureReadable
  split <;> rfl

theorem placeBytes_encluBytes (s : State) (k : Nat) (bytes : List Byte) :
    (placeBytes s k bytes).platform.encluBytes = s.platform.encluBytes := by
  induction bytes generalizing s k with
  | nil => rfl
  | cons b rest ih =>
    simp only [placeBytes]
    split
    · rw [ih]
      exact ensureReadable_encluBytes _ _
    · rw [ih, ensureReadable_encluBytes]

/-- With a word of the opcode table placed, ENCLU is encoded as the table gives it. -/
theorem withFetchWord_encluBytes (s : State) (nbits w : Nat) :
    (s.withFetchWord nbits w).platform.encluBytes = Config.defaultEncluBytes := placeBytes_encluBytes _ _ _

/-- Placing bytes keeps the canonical form of memory. -/
theorem placeBytes_wf {s : State} (h : Memory.wf s.mem = true) (k : Nat) (bytes : List Byte) :
    Memory.wf (placeBytes s k bytes).mem = true := by
  induction bytes generalizing s k with
  | nil => exact h
  | cons b rest ih =>
    have he : Memory.wf (ensureReadable s (fetchLinear s.lp k)).mem = true := by
      rw [ensureReadable_mem]
      exact h
    unfold placeBytes
    cases ht : Machine.translate (ensureReadable s (fetchLinear s.lp k)) (fetchLinear s.lp k) .read with
    | ok pa =>
      simp only [ht]
      exact ih (Memory.setByte_wf he _ _) _
    | error f =>
      simp only [ht]
      exact ih he _

/-- Placing an instruction keeps the canonical form of memory. -/
theorem withFetchWord_wf {s : State} (h : Memory.wf s.mem = true) (nbits w : Nat) : Memory.wf (s.withFetchWord nbits w).mem = true :=
  placeBytes_wf (s := selectEenter s) h 0 _

end Sys2Proof.Machine
end

