-- ==== Sys2Proof/Laws/PerInstr.lean ====
section
/-! SUPPORT. Statements for all instructions, made per instruction. -/

namespace Sys2Proof.Laws

/-! ## `EncodeLength`: an instruction is as many bytes long as the step fetches (30_encoding.md R110) -/

namespace EncodeLength

/-- The instruction's encoding is `ENCLU_LENGTH` bytes, whatever `ENCLU_BYTES` are. -/
def Statement (i : Instr) : Prop := ∀ enclu : List Byte, (encode enclu i).length = enclu.length

theorem encluEenter : Statement .encluEenter := fun _ => rfl

end EncodeLength

end Sys2Proof.Laws
end

