-- ==== Sys2Proof/Tests/Slice0.lean ====
section
/-! SUPPORT. The model's own tests. The expected results are those of spec/95_test_vectors.md: the two baseline states B64 and B32, the
programs P1 and P2, or a word written out from the encoding of 30_encoding.md. Then, for each statement with hypotheses, a
state that meets them all: `witness_<what>`, one state for each clause where the clauses differ. -/

namespace Sys2Proof.Tests

open Sys2Proof.Machine Sys2Proof.Safety

/-! ## The baseline states -/

def rw (type : BitVec 4) (dpl : BitVec 2) (l : Bool) : AccessRights :=
  { type := type, s := true, dpl := dpl, g := true, b := true, p := true, avl := false, l := l, unusable := false }

def seg (selector : BitVec 16) (base : Word) (limit : BitVec 32) (ar : AccessRights) : Segment :=
  { selector := selector, base := base, limit := limit, ar := ar }

def pageOf (page frame : PageNumber) : PageEntry := { page := page, mapping := mapTo frame }

def regPage (la secs : Word) : EpcmEntry :=
  { valid := true, blocked := false, pending := false, modified := false, r := true, w := true, pt := .ptReg
    enclaveAddress := la, enclaveSecs := secs }

def secsPage : EpcmEntry := { regPage 0 0 with pt := .ptSecs }

def tcsPage (la secs : Word) : EpcmEntry := { regPage la secs with pt := .ptTcs }

/-- Store a 64-bit number. -/
def write64 (m : Memory) (pa : PhysAddr) (v : Word) : Memory := Memory.writeLe m pa 8 v.toNat

/-- The 64-bit number at `pa`. -/
def read64 (m : Memory) (pa : PhysAddr) : Nat := Memory.readLe m pa 8

def write32 (m : Memory) (pa : PhysAddr) (v : BitVec 32) : Memory := Memory.writeLe m pa 4 v.toNat

/-- A TCS at `pa` (layout of GK2). -/
def putTcs (m : Memory) (pa flags ossa : Word) (cssa nssa : BitVec 32) (oentry ofs ogs : Word) (fsl gsl : BitVec 32) : Memory :=
  let m := write64 m (pa + 8) flags
  let m := write64 m (pa + 16) ossa
  let m := write32 m (pa + 24) cssa
  let m := write32 m (pa + 28) nssa
  let m := write64 m (pa + 32) oentry
  let m := write64 m (pa + 48) ofs
  let m := write64 m (pa + 56) ogs
  let m := write32 m (pa + 64) fsl
  write32 m (pa + 68) gsl

/-- A SECS at `pa` (layout of GK3); bit 0 of `attributes` is INIT, bit 2 MODE64BIT. -/
def putSecs (m : Memory) (pa size base : Word) (frameSize : BitVec 32) (attributes xfrm : Word) : Memory :=
  let m := write64 m pa size
  let m := write64 m (pa + 8) base
  let m := write32 m (pa + 16) frameSize
  let m := write64 m (pa + 48) attributes
  write64 m (pa + 56) xfrm

/-- The bytes 0F 01 D7 at `pa`. -/
def putEnclu (m : Memory) (pa : PhysAddr) : Memory := Memory.writeLe m pa 3 0xD7010F

/-- B64: 64-bit mode, opt-out enclave. The SECS S0 is at physical 8000_0000H, the code at its linear address. -/
def b64 : State :=
  { State.reset with
    lp := { LogicalProcessor.reset with
      gpr := { Gprs.reset with rax := 2, rbx := 0x7F0000003000, rcx := 0x401234, rsp := 0x7FFFFFFFE000, rbp := 0x7FFFFFFFE100 }
      rip := 0x401000, rflags := 0x102, efer := 0x400, cr4 := 0x40200, xcr0 := 7
      cs := seg 0x33 0 0xFFFFFFFF (rw 0b1011 3 true), ds := seg 0x2B 0 0xFFFFFFFF (rw 0b0011 3 false)
      es := seg 0x2B 0 0xFFFFFFFF (rw 0b0011 3 false), ss := seg 0x2B 0 0xFFFFFFFF (rw 0b0011 3 false)
      fs := seg 0 0x7FFFF7D00000 0xFFFFFFFF (rw 0b0011 3 false), gs := seg 0 0 0xFFFFF (rw 0b0011 3 false) }
    mem := putEnclu (putSecs (putTcs [] 0x80003000 0 0x4000 0 2 0x1000 0x8000 0x9000 0xFFF 0xFFF)
      0x80000000 0x100000 0x7F0000000000 1 0b101 3) 0x401000
    epcm := [(0x80003, tcsPage 0x7F0000003000 0x80000000), (0x80004, regPage 0x7F0000004000 0x80000000),
      (0x80005, regPage 0x7F0000005000 0x80000000), (0x80000, secsPage)]
    platform := { Platform.reset with
      pageMap := [pageOf 0x7F0000003 0x80003, pageOf 0x7F0000004 0x80004, pageOf 0x7F0000005 0x80005]
      epc := [{ first := 0x80000, count := 0x100 }] } }

/-- B32: 32-bit protected mode, opt-in enclave. The SECS S1 is at physical 9000_0000H, the code at its linear address. -/
def b32 : State :=
  { State.reset with
    lp := { LogicalProcessor.reset with
      gpr := { Gprs.reset with rax := 2, rbx := 0x10003000, rcx := 0x08048123, rsp := 0xBFFFF000, rbp := 0xBFFFF040 }
      rip := 0x08048100, rflags := 0x102, efer := 0, cr4 := 0x200, xcr0 := 3
      cs := seg 0x23 0 0xFFFFFFFF (rw 0b1011 3 false), ds := seg 0x2B 0 0xFFFFFFFF (rw 0b0011 3 false)
      es := seg 0x2B 0 0xFFFFFFFF (rw 0b0011 3 false), ss := seg 0x2B 0 0xFFFFFFFF (rw 0b0011 3 false)
      fs := seg 0x33 0 0xFFFFFFFF (rw 0b0011 3 false), gs := { Segment.zero with ar := { Segment.zero.ar with unusable := true } } }
    mem := putEnclu (putSecs (putTcs [] 0x90003000 1 0x4000 1 3 0x2000 0xA000 0xB000 0xFFF 0x1FFF)
      0x90000000 0x100000 0x10000000 2 0b001 3) 0x08048100
    epcm := [(0x90003, tcsPage 0x10003000 0x90000000), (0x90006, regPage 0x10006000 0x90000000),
      (0x90007, regPage 0x10007000 0x90000000), (0x90000, secsPage)]
    platform := { Platform.reset with
      pageMap := [pageOf 0x10003 0x90003, pageOf 0x10006 0x90006, pageOf 0x10007 0x90007]
      epc := [{ first := 0x90000, count := 0x100 }] } }

/-- A field of the next state. -/
def nextIs {α : Type} (o : Host.Outcome State Fault Refusal) (f : State → α) : Option α :=
  match o with
  | .next t => some (f t)
  | _ => none

/-! ## The decoder and the two programs -/

/-- The word written out from the encoding of R101: 00001111 00000001 11010111. -/
theorem test_word_decodes : decodeTableWord 24 0b000011110000000111010111 = some .encluEenter := by decide

/-- 0F 01 D0, another instruction, and 0F 01 alone are refused by name. -/
theorem test_other_words_refused :
    wellFormedWord 0x0F01D0 = false ∧ decodeTableWord 24 0x0F01D0 = none
    ∧ decode Config.defaultEncluBytes [0x0F, 0x01, 0xD0] = .error (.notBareEnclu [0x0F, 0x01, 0xD0])
    ∧ decode Config.defaultEncluBytes [0x0F, 0x01] = .error (.truncated 2) := by
  decide

/-- P1: RIP, RAX, RCX and the two bases after the entry. -/
theorem test_p1 : nextIs (step b64) (fun t => (t.lp.rip, t.lp.gpr.rax, t.lp.gpr.rcx, t.lp.fs.base, t.lp.gs.base))
    = some (0x7F0000001000, 0, 0x401003, 0x7F0000008000, 0x7F0000009000) := by decide

/-- P2: RIP, RAX, RCX, the pended #DB, and U_RSP in the GPR area. -/
theorem test_p2 : nextIs (step b32) (fun t => (t.lp.rip, t.lp.gpr.rax, t.lp.gpr.rcx, t.lp.pend.debugExceptions,
    read64 t.mem (0x90007F48 + 144))) = some (0x10002000, 1, 0x08048103, [.singleStep], 0xBFFFF000) := by decide

/-! ## Helpers of the witnesses -/

def setLp (s : State) (f : LogicalProcessor → LogicalProcessor) : State := { s with lp := f s.lp }

/-- Write a 64-bit field of memory. -/
def poke (s : State) (pa : PhysAddr) (v : Word) : State := { s with mem := write64 s.mem pa v }

/-- Write a 32-bit field of memory. -/
def poke32 (s : State) (pa : PhysAddr) (v : BitVec 32) : State := { s with mem := write32 s.mem pa v }

/-- Put an EPCM entry in front of the others. -/
def pokeEpcm (s : State) (page : PageNumber) (e : EpcmEntry) : State := { s with epcm := (page, e) :: s.epcm }

/-- Map a linear page anew. -/
def remap (s : State) (page : PageNumber) (m : Mapping) : State :=
  { s with platform := { s.platform with pageMap := { page := page, mapping := m } :: s.platform.pageMap } }

/-- A page that can be read and not written. -/
def readOnly (frame : PageNumber) (onWrite : TranslationFault) : Mapping := { read := .frame frame, readWrite := .fault onWrite }

/-- Beside the executing logical processor, one more. -/
def withAnother (s : State) : State := { s with others := [{ LogicalProcessor.reset with id := 1 }] }

def tcs64 : PhysAddr := 0x80003000
def gpr64 : PhysAddr := 0x80004F48
def entry64 : Entry := { tcsPa := tcs64, xsavePages := [0x80004000], gprPa := gpr64 }
def tcs32 : PhysAddr := 0x90003000
def gpr32 : PhysAddr := 0x90007F48

theorem next_of {o : Host.Outcome State Fault Refusal} (h : nextIs o (fun _ => ()) = some ()) : ∃ t, o = .next t := by
  cases o with
  | next t => exact ⟨t, rfl⟩
  | fault f => cases h
  | refused r => cases h

theorem early {s : State} (h : checkEnclu s.lp = .ok () ∧ checkSegments s.lp = .ok ()) : DispatchOk s.lp ∧ SegmentsOk s.lp :=
  ⟨(checkEnclu_eq_ok_iff _).1 h.1, (checkSegments_eq_ok_iff _).1 h.2⟩

theorem paged {s : State} {pa : PhysAddr} (h : checkEnclu s.lp = .ok () ∧ checkSegments s.lp = .ok () ∧ checkTcsPage s = .ok pa) :
    DispatchOk s.lp ∧ SegmentsOk s.lp ∧ TcsPageOk s pa :=
  ⟨(checkEnclu_eq_ok_iff _).1 h.1, (checkSegments_eq_ok_iff _).1 h.2.1, (checkTcsPage_eq_ok_iff _ _).1 h.2.2⟩

theorem xsaved {s : State} {pa : PhysAddr} {pages : List PhysAddr} (h : checkXsavePages s pa 0 (ssaPages s pa) = .ok pages) :
    XsavePagesOk s pa := fun n hn => by simpa using (checkXsavePages_ok_iff s pa 0 (ssaPages s pa)).1 ⟨_, h⟩ n hn

/-! ## Witnesses: the step -/

theorem witness_wellFormed : Instr.wellFormed .encluEenter = true := rfl

theorem witness_decoded : decode Config.defaultEncluBytes [0x0F, 0x01, 0xD7, 0x90] = .ok (.encluEenter, [0x90]) := by decide

/-- The largest word of the table's width is none of its instructions. -/
theorem witness_table_word : 0xFFFFFF < 2 ^ 24 ∧ decodeTableWord 24 0xFFFFFF = none ∧ 0x0F01D7 < 2 ^ 24 := by decide

/-- No event due, the bytes of ENCLU fetched: a next state, a fault (misaligned RBX), a refusal (EAX = 3). -/
theorem witness_step : ∀ s ∈ [b64, setLp b64 fun l => { l with gpr := { l.gpr with rbx := 1 } },
      setLp b64 fun l => { l with gpr := { l.gpr with rax := 3 } }],
    dueEvent s = none ∧ fetch s = .ok [0x0F, 0x01, 0xD7] 
    ∧ decode s.platform.encluBytes [0x0F, 0x01, 0xD7] = .ok (.encluEenter, []) := by decide

/-- B64 without the page after the code page, at another RIP. -/
def noNextPage (rip : Word) : State :=
  setLp (remap b64 0x402 { read := .fault (.pageFault 4), readWrite := .fault (.pageFault 6) }) fun l => { l with rip := rip }

/-- No event due, and the first, or only the last, of the three bytes cannot be fetched. -/
theorem witness_fetch_fault : ∀ s ∈ [noNextPage 0x402000, noNextPage 0x401FFE],
    dueEvent s = none ∧ fetch s = .error (.pageFault 4 0x402000) := by decide

theorem witness_undecodable : dueEvent (poke b64 0x401000 0) = none ∧ fetch (poke b64 0x401000 0) = .ok [0, 0, 0]
    ∧ decode (poke b64 0x401000 0).platform.encluBytes [0, 0, 0] = .error (.notBareEnclu [0, 0, 0]) := by decide

def pended (events : List DebugEvent) (mtf : Bool) (order : PendOrder) : State :=
  { setLp b64 (fun l => { l with pend := { debugExceptions := events, mtfVmExit := mtf, boundary := true } }) with
    platform := { b64.platform with pendOrder := order } }

theorem witness_pended :
    (∀ s ∈ [pended [.singleStep] false .mtfFirst, pended [] true .debugFirst, pended [.singleStep] true .debugFirst,
      pended [.singleStep] true .mtfFirst], s.lp.pend.boundary = true)
    ∧ (pended [.singleStep] true .debugFirst).platform.pendOrder = .debugFirst
    ∧ (pended [.singleStep] true .mtfFirst).platform.pendOrder = .mtfFirst := by decide

/-! ## Witnesses: the checks -/

theorem witness_other_leaf : (setLp b64 fun l => { l with gpr := { l.gpr with rax := 3 } }).lp.eax ≠ 2 := by decide

theorem witness_dispatch :
    let s1 := setLp b64 fun l => { l with encluPrecheck := some (.platform 6 0) }
    let s2 := setLp b64 fun l => { l with cr := { l.cr with enclaveMode := true } }
    (s1.lp.eax = 2 ∧ s1.lp.encluPrecheck = some (.platform 6 0))
    ∧ s2.lp.eax = 2 ∧ s2.lp.encluPrecheck = none ∧ s2.lp.cr.enclaveMode = true := by decide

/-- One state for each of the seven conditions of R121 to R125. -/
def badSegments : List State :=
  [setLp b32 fun l => { l with ds := { l.ds with ar := { l.ds.ar with unusable := true } } },
   setLp b32 fun l => { l with ds := { l.ds with ar := { l.ds.ar with type := 0b0111 } } },
   setLp b32 fun l => { l with cs := { l.cs with base := 1 } },
   setLp b32 fun l => { l with ds := { l.ds with base := 1 } },
   setLp b32 fun l => { l with es := { l.es with base := 1 } },
   setLp b32 fun l => { l with ss := { l.ss with base := 1 } },
   setLp b32 fun l => { l with ss := { l.ss with ar := { l.ss.ar with b := false } } }]

theorem witness_segments : ∀ s ∈ badSegments, s.lp.eax = 2 ∧ DispatchOk s.lp ∧ s.lp.mode64 = false
    ∧ (s.lp.ds.ar.unusable = true
      ∨ (s.lp.ds.ar.s = true ∧ s.lp.ds.ar.type.getLsbD 3 = false ∧ s.lp.ds.ar.type.getLsbD 2 = true)
      ∨ s.lp.cs.base.toNat % 2 ^ 32 ≠ 0 ∨ s.lp.ds.base.toNat % 2 ^ 32 ≠ 0 ∨ (s.lp.es.ar.unusable = false ∧ s.lp.es.base.toNat % 2 ^ 32 ≠ 0)
      ∨ (s.lp.ss.ar.unusable = false ∧ s.lp.ss.base.toNat % 2 ^ 32 ≠ 0) ∨ (s.lp.ss.ar.unusable = false ∧ s.lp.ss.ar.b = false)) := by decide

/-- The lowest and the highest misaligned offset in the page. -/
theorem witness_misaligned : ∀ s ∈ [setLp b64 fun l => { l with gpr := { l.gpr with rbx := 0x7F0000003001 } },
      setLp b32 fun l => { l with gpr := { l.gpr with rbx := 0x10003FFF } }],
    s.lp.eax = 2 ∧ DispatchOk s.lp ∧ SegmentsOk s.lp ∧ (tcsLinear s.lp).toNat % 4096 ≠ 0 := by decide

theorem witness_unresolved :
    let s1 := remap b64 0x7F0000003 (readOnly 0x80003 (.pageFault 7))
    let s2 := remap b64 0x7F0000003 (mapTo 0x80100)
    (s1.lp.eax = 2 ∧ DispatchOk s1.lp ∧ SegmentsOk s1.lp ∧ TcsAligned s1
      ∧ translate s1 (tcsLinear s1.lp) .readWrite = .error (.pageFault 7 0x7F0000003000))
    ∧ s2.lp.eax = 2 ∧ DispatchOk s2.lp ∧ SegmentsOk s2.lp ∧ TcsAligned s2
      ∧ translate s2 (tcsLinear s2.lp) .readWrite = .ok 0x80100000 ∧ inEpc s2.platform 0x80100000 = false := by decide

theorem witness_aep_and_busy :
    let s1 := setLp b64 fun l => { l with gpr := { l.gpr with rcx := 0x800000000000 } }
    let s2 := { withAnother b32 with tcsLocks := [{ frame := 0x90003, holder := 1, exclusive := true }] }
    (s1.lp.eax = 2 ∧ DispatchOk s1.lp ∧ SegmentsOk s1.lp ∧ TcsAligned s1 ∧ TcsResolves s1 tcs64 ∧ s1.lp.mode64 = true
      ∧ ¬CanonicalAddr s1.platform.laWidth s1.lp.gpr.rcx)
    ∧ s2.lp.eax = 2 ∧ DispatchOk s2.lp ∧ SegmentsOk s2.lp ∧ TcsAligned s2 ∧ TcsResolves s2 tcs32 ∧ AepOk s2
      ∧ ∃ l ∈ s2.tcsLocks, l.frame = pageNumber tcs32 ∧ l.exclusive = true ∧ l.holder ≠ s2.lp.id
        ∧ ∃ o ∈ s2.others, o.id = l.holder :=
  ⟨⟨by decide, by decide, by decide, by decide, by decide, by decide, (canonical_eq_false_iff _ _).1 (by decide)⟩,
    by decide, by decide, by decide, by decide, by decide, (aepOk_iff _).1 (by decide), by decide⟩

/-- One EPCM entry for each of the six conditions of R130 to R133, those of R132 and of R133 two each. -/
def badTcsEntry (f : EpcmEntry → EpcmEntry) : State := pokeEpcm b64 0x80003 (f (tcsPage 0x7F0000003000 0x80000000))

theorem witness_tcs_epcm :
    let e1 := badTcsEntry fun e => { e with valid := false, blocked := true }
    let e2 := badTcsEntry fun e => { e with blocked := true, pt := .ptReg }
    let e3 := badTcsEntry fun e => { e with enclaveAddress := 0x7F0000004000, pending := true }
    let e4 := badTcsEntry fun e => { e with pt := .ptReg }
    let e5 := badTcsEntry fun e => { e with pending := true }
    let e6 := badTcsEntry fun e => { e with modified := true }
    (∀ s ∈ [e1, e2, e3, e4, e5, e6], s.lp.eax = 2 ∧ DispatchOk s.lp ∧ SegmentsOk s.lp ∧ TcsAligned s ∧ TcsResolves s tcs64
      ∧ AepOk s ∧ TcsFree s tcs64)
    ∧ (epcmAt e1 tcs64).valid = false
    ∧ ((epcmAt e2 tcs64).valid = true ∧ (epcmAt e2 tcs64).blocked = true)
    ∧ (∀ s ∈ [e3, e4], (epcmAt s tcs64).valid = true ∧ (epcmAt s tcs64).blocked = false
      ∧ ((epcmAt s tcs64).enclaveAddress ≠ tcsLinear s.lp ∨ (epcmAt s tcs64).pt ≠ .ptTcs))
    ∧ ∀ s ∈ [e5, e6], (epcmAt s tcs64).valid = true ∧ (epcmAt s tcs64).blocked = false
      ∧ (epcmAt s tcs64).enclaveAddress = tcsLinear s.lp ∧ (epcmAt s tcs64).pt = .ptTcs
      ∧ ((epcmAt s tcs64).pending = true ∨ (epcmAt s tcs64).modified = true) := by
  refine ⟨?_, by decide, by decide, by decide, by decide⟩
  simp only [← aepOk_iff]
  decide

/-- One TCS for each of the five conditions of R134, R135, R142 and R148, the last at CSSA = NSSA. -/
def badTcsFields : List State :=
  [poke b64 (tcs64 + 16) 0x4001, poke b64 (tcs64 + 48) 0x8FFF, poke b64 (tcs64 + 56) 0x9001, poke b64 (tcs64 + 8) 2,
   poke32 b64 (tcs64 + 28) 0]

theorem witness_tcs_fields : ∀ s ∈ badTcsFields, s.lp.eax = 2 ∧ (DispatchOk s.lp ∧ SegmentsOk s.lp ∧ TcsPageOk s tcs64)
    ∧ ((tcsAt s tcs64).ossa.toNat % 4096 ≠ 0 ∨ (tcsAt s tcs64).ofsbase.toNat % 4096 ≠ 0 ∨ (tcsAt s tcs64).ogsbase.toNat % 4096 ≠ 0
      ∨ (tcsAt s tcs64).flags &&& 0xFFFFFFFFFFFFFFFE ≠ 0 ∨ (tcsAt s tcs64).nssa.toNat ≤ (tcsAt s tcs64).cssa.toNat) := fun s hs =>
  have h := (by decide : ∀ s ∈ badTcsFields, s.lp.eax = 2
    ∧ (checkEnclu s.lp = .ok () ∧ checkSegments s.lp = .ok () ∧ checkTcsPage s = .ok tcs64)
    ∧ ((tcsAt s tcs64).ossa.toNat % 4096 ≠ 0 ∨ (tcsAt s tcs64).ofsbase.toNat % 4096 ≠ 0 ∨ (tcsAt s tcs64).ogsbase.toNat % 4096 ≠ 0
      ∨ (tcsAt s tcs64).flags &&& 0xFFFFFFFFFFFFFFFE ≠ 0 ∨ (tcsAt s tcs64).nssa.toNat ≤ (tcsAt s tcs64).cssa.toNat)) s hs
  ⟨h.1, paged h.2.1, h.2.2⟩

/-- One state for each of the conditions of R143, R144, R137. -/
def badEnclaves : List State :=
  [poke b64 0x80000030 0b100, poke b64 0x80000030 0b001, { withAnother b64 with secsUses := [{ secs := 0x80000000, holder := 1 }] }]

theorem witness_enclave_state : ∀ s ∈ badEnclaves, s.lp.eax = 2 ∧ (DispatchOk s.lp ∧ SegmentsOk s.lp ∧ TcsPageOk s tcs64)
    ∧ ((secsAt s tcs64).init = false ∨ (secsAt s tcs64).mode64bit ≠ s.lp.mode64
      ∨ ∃ u ∈ s.secsUses, u.secs = tmpSecs s tcs64 ∧ u.holder ≠ s.lp.id ∧ ∃ o ∈ s.others, o.id = u.holder) := fun s hs =>
  have h := (by decide : ∀ s ∈ badEnclaves, s.lp.eax = 2
    ∧ (checkEnclu s.lp = .ok () ∧ checkSegments s.lp = .ok () ∧ checkTcsPage s = .ok tcs64)
    ∧ ((secsAt s tcs64).init = false ∨ (secsAt s tcs64).mode64bit ≠ s.lp.mode64
      ∨ ∃ u ∈ s.secsUses, u.secs = tmpSecs s tcs64 ∧ u.holder ≠ s.lp.id ∧ ∃ o ∈ s.others, o.id = u.holder)) s hs
  ⟨h.1, paged h.2.1, h.2.2⟩

/-- One state for each of the conditions of R145, R146, R147: XFRM = 2 without OSXSAVE, bit 3 of XFRM outside XCR0 with it. -/
def badXfrm : List State :=
  [setLp b64 fun l => { l with cr4 := 0x40000 }, setLp (poke b64 0x80000038 2) fun l => { l with cr4 := 0x200 },
   poke b64 0x80000038 0xB]

theorem witness_xfrm : ∀ s ∈ badXfrm, s.lp.eax = 2 ∧ (DispatchOk s.lp ∧ SegmentsOk s.lp ∧ TcsPageOk s tcs64)
    ∧ (s.lp.osfxsr = false ∨ (s.lp.osxsave = false ∧ (secsAt s tcs64).xfrm ≠ 3)
      ∨ (s.lp.osxsave = true ∧ (secsAt s tcs64).xfrm &&& s.lp.xcr0 ≠ (secsAt s tcs64).xfrm)) := fun s hs =>
  have h := (by decide : ∀ s ∈ badXfrm, s.lp.eax = 2
    ∧ (checkEnclu s.lp = .ok () ∧ checkSegments s.lp = .ok () ∧ checkTcsPage s = .ok tcs64)
    ∧ (s.lp.osfxsr = false ∨ (s.lp.osxsave = false ∧ (secsAt s tcs64).xfrm ≠ 3)
      ∨ (s.lp.osxsave = true ∧ (secsAt s tcs64).xfrm &&& s.lp.xcr0 ≠ (secsAt s tcs64).xfrm))) s hs
  ⟨h.1, paged h.2.1, h.2.2⟩

/-- FS one byte beyond DS.limit; GS wrapping (FSLIMIT 0) with the DS limit one short of 4 GBytes. -/
theorem witness_segment_outside_ds :
    let s1 := setLp b32 fun l => { l with ds := { l.ds with limit := 0x1000AFFE } }
    let s2 := setLp (poke32 b32 (tcs32 + 68) 0xF0000000) fun l => { l with ds := { l.ds with limit := 0xFFFFFFFE } }
    (s1.lp.eax = 2 ∧ (DispatchOk s1.lp ∧ SegmentsOk s1.lp ∧ TcsPageOk s1 tcs32) ∧ s1.lp.mode64 = false
      ∧ ∃ off ≤ (tcsAt s1 tcs32).fslimit.toNat, s1.lp.ds.limit.toNat < ((tmpFsBase s1 tcs32).toNat + off) % 2 ^ 32)
    ∧ s2.lp.eax = 2 ∧ (DispatchOk s2.lp ∧ SegmentsOk s2.lp ∧ TcsPageOk s2 tcs32) ∧ s2.lp.mode64 = false
      ∧ ∃ off ≤ (tcsAt s2 tcs32).gslimit.toNat, s2.lp.ds.limit.toNat < ((tmpGsBase s2 tcs32).toNat + off) % 2 ^ 32 :=
  ⟨⟨by decide, paged (by decide), by decide, 0xFFF, by decide, by decide⟩,
    by decide, paged (by decide), by decide, 0xEFFF4FFF, by decide, by decide⟩

theorem witness_segment_base : ∀ s ∈ [poke b64 (tcs64 + 48) 0x10000000000, poke b64 (tcs64 + 56) 0x10000000000],
    s.lp.eax = 2 ∧ (DispatchOk s.lp ∧ SegmentsOk s.lp ∧ TcsPageOk s tcs64) ∧ s.lp.mode64 = true
    ∧ (¬CanonicalAddr s.platform.laWidth ((tcsAt s tcs64).ofsbase + (secsAt s tcs64).baseaddr)
      ∨ ¬CanonicalAddr s.platform.laWidth ((tcsAt s tcs64).ogsbase + (secsAt s tcs64).baseaddr)) := fun s hs =>
  have h := (by decide : ∀ s ∈ [poke b64 (tcs64 + 48) 0x10000000000, poke b64 (tcs64 + 56) 0x10000000000], s.lp.eax = 2
    ∧ (checkEnclu s.lp = .ok () ∧ checkSegments s.lp = .ok () ∧ checkTcsPage s = .ok tcs64) ∧ s.lp.mode64 = true
    ∧ (canonical s.platform.laWidth ((tcsAt s tcs64).ofsbase + (secsAt s tcs64).baseaddr) = false
      ∨ canonical s.platform.laWidth ((tcsAt s tcs64).ogsbase + (secsAt s tcs64).baseaddr) = false)) s hs
  ⟨h.1, paged h.2.1, h.2.2.1, h.2.2.2.imp (canonical_eq_false_iff _ _).1 (canonical_eq_false_iff _ _).1⟩

/-- An XSAVE area of 4097 bytes, so of two pages. -/
def twoPages : State := { b64 with platform := { b64.platform with xsaveSizes := [(3, 4097)] } }

theorem enclavePageOk_ne {s : State} {secs : PhysAddr} {a : LinAddr} {p : PhysAddr} (cause : Config.PfCause)
    (h : checkEnclavePage s secs cause a ≠ .ok p) : ¬EnclavePageOk s secs a p := fun hp =>
  h ((checkEnclavePage_eq_ok_iff s secs cause a p).2 hp)

/-- The first page not mapped for writing; the second page of another enclave. -/
theorem witness_ssa_page :
    let s1 := remap b64 0x7F0000004 (readOnly 0x80004 (.pageFault 7))
    let s2 := pokeEpcm twoPages 0x80005 (regPage 0x7F0000005000 0x80010000)
    (s1.lp.eax = 2 ∧ (DispatchOk s1.lp ∧ SegmentsOk s1.lp ∧ TcsPageOk s1 tcs64) ∧ TcsFieldsOk s1 tcs64 ∧ 0 < ssaPages s1 tcs64
      ∧ (∀ m < 0, ∃ p, EnclavePageOk s1 (tmpSecs s1 tcs64) (tmpSsaPage s1 tcs64 m) p)
      ∧ translate s1 (tmpSsaPage s1 tcs64 0) .readWrite = .error (.pageFault 7 0x7F0000004000))
    ∧ s2.lp.eax = 2 ∧ (DispatchOk s2.lp ∧ SegmentsOk s2.lp ∧ TcsPageOk s2 tcs64) ∧ TcsFieldsOk s2 tcs64 ∧ 1 < ssaPages s2 tcs64
      ∧ (∀ m < 1, ∃ p, EnclavePageOk s2 (tmpSecs s2 tcs64) (tmpSsaPage s2 tcs64 m) p)
      ∧ translate s2 (tmpSsaPage s2 tcs64 1) .readWrite = .ok 0x80005000
      ∧ ¬EnclavePageOk s2 (tmpSecs s2 tcs64) (tmpSsaPage s2 tcs64 1) 0x80005000 :=
  ⟨⟨by decide, paged (by decide), (checkTcsFields_eq_ok_iff _ _).1 (by decide), by decide, fun m hm => absurd hm (by omega), by decide⟩,
    by decide, paged (by decide), (checkTcsFields_eq_ok_iff _ _).1 (by decide), by decide,
    fun m hm => ⟨0x80004000, by
      obtain rfl : m = 0 := by omega
      exact (checkEnclavePage_eq_ok_iff _ _ .xsavePage _ _).1 (by decide)⟩,
    by decide, fun h => absurd h.2.2.2.2.2.2.2.2.2.2 (by decide)⟩

/-- Frames of two pages put the GPR area into the second: not mapped for writing, not readable by its EPCM entry; and in 32-bit mode a GPR
area whose last byte is one beyond DS.limit. -/
theorem witness_gpr_area :
    let f := poke32 b64 0x80000010 2
    let s1 := remap f 0x7F0000005 (readOnly 0x80005 (.pageFault 7))
    let s2 := pokeEpcm f 0x80005 { regPage 0x7F0000005000 0x80000000 with r := false }
    let s3 := setLp (poke (poke b32 (tcs32 + 48) 0x1000) (tcs32 + 56) 0x1000) fun l => { l with ds := { l.ds with limit := 0x10007FFE } }
    (s1.lp.eax = 2 ∧ (DispatchOk s1.lp ∧ SegmentsOk s1.lp ∧ TcsPageOk s1 tcs64) ∧ TcsFieldsOk s1 tcs64 ∧ XsavePagesOk s1 tcs64
      ∧ translate s1 (tmpGpr s1 tcs64) .readWrite = .error (.pageFault 7 0x7F0000005F48))
    ∧ (s2.lp.eax = 2 ∧ (DispatchOk s2.lp ∧ SegmentsOk s2.lp ∧ TcsPageOk s2 tcs64) ∧ TcsFieldsOk s2 tcs64 ∧ XsavePagesOk s2 tcs64
      ∧ translate s2 (tmpGpr s2 tcs64) .readWrite = .ok 0x80005F48
      ∧ ¬EnclavePageOk s2 (tmpSecs s2 tcs64) (tmpGpr s2 tcs64) 0x80005F48)
    ∧ s3.lp.eax = 2 ∧ (DispatchOk s3.lp ∧ SegmentsOk s3.lp ∧ TcsPageOk s3 tcs32) ∧ TcsFieldsOk s3 tcs32 ∧ XsavePagesOk s3 tcs32
      ∧ EnclavePageOk s3 (tmpSecs s3 tcs32) (tmpGpr s3 tcs32) gpr32 ∧ s3.lp.mode64 = false
      ∧ s3.lp.ds.limit.toNat < ((tmpGpr s3 tcs32).toNat + (s3.platform.gprsgxSize - 1)) % 2 ^ 32 :=
  ⟨⟨by decide, paged (by decide), (checkTcsFields_eq_ok_iff _ _).1 (by decide), xsaved (pages := [0x80004000]) (by decide), by decide⟩,
    ⟨by decide, paged (by decide), (checkTcsFields_eq_ok_iff _ _).1 (by decide), xsaved (pages := [0x80004000]) (by decide), by decide,
      fun h => absurd h.2.2.2.2.2.2.2.1 (by decide)⟩,
    by decide, paged (by decide), (checkTcsFields_eq_ok_iff _ _).1 (by decide), xsaved (pages := [0x90006000]) (by decide),
    (checkEnclavePage_eq_ok_iff _ _ .gprArea _ _).1 (by decide), by decide, by decide⟩

/-- A target that is not canonical; a target one beyond the CS limit. -/
theorem witness_entry_point :
    let s1 := poke b64 (tcs64 + 32) 0x10000000000
    let s2 := setLp b32 fun l => { l with cs := { l.cs with limit := 0x10001FFF } }
    (s1.lp.eax = 2 ∧ (DispatchOk s1.lp ∧ SegmentsOk s1.lp ∧ TcsPageOk s1 tcs64) ∧ TcsFieldsOk s1 tcs64 ∧ XsavePagesOk s1 tcs64
      ∧ GprAreaOk s1 tcs64 gpr64 ∧ s1.lp.mode64 = true
      ∧ ¬CanonicalAddr s1.platform.laWidth ((tcsAt s1 tcs64).oentry + (secsAt s1 tcs64).baseaddr))
    ∧ s2.lp.eax = 2 ∧ (DispatchOk s2.lp ∧ SegmentsOk s2.lp ∧ TcsPageOk s2 tcs32) ∧ TcsFieldsOk s2 tcs32 ∧ XsavePagesOk s2 tcs32
      ∧ GprAreaOk s2 tcs32 gpr32 ∧ s2.lp.mode64 = false
      ∧ s2.lp.cs.limit.toNat < ((tcsAt s2 tcs32).oentry.toNat + (secsAt s2 tcs32).baseaddr.toNat) % 2 ^ 32 :=
  ⟨⟨by decide, paged (by decide), (checkTcsFields_eq_ok_iff _ _).1 (by decide), xsaved (pages := [0x80004000]) (by decide),
      (checkGprArea_eq_ok_iff _ _ _).1 (by decide), by decide, (canonical_eq_false_iff _ _).1 (by decide)⟩,
    by decide, paged (by decide), (checkTcsFields_eq_ok_iff _ _).1 (by decide), xsaved (pages := [0x90006000]) (by decide),
    (checkGprArea_eq_ok_iff _ _ _).1 (by decide), by decide, by decide⟩

/-! ## Witnesses: a successful entry -/

/-- B64, an opt-out entry in 64-bit mode. -/
theorem witness_enterable64 : Enterable b64 tcs64 gpr64 :=
  enterable_of_checkPhase (e := entry64) (by decide) (by decide)

/-- B32, an opt-in entry with TF = 1 outside 64-bit mode. -/
theorem witness_enterable32 : Enterable b32 tcs32 gpr32 :=
  enterable_of_checkPhase (e := { tcsPa := tcs32, xsavePages := [0x90006000], gprPa := gpr32 }) (by decide) (by decide)

theorem upToState {s : State} {pa g : PhysAddr} {pages : List PhysAddr} (hl : s.lp.eax = 2)
    (h1 : checkEnclu s.lp = .ok () ∧ checkSegments s.lp = .ok () ∧ checkTcsPage s = .ok pa) (h2 : checkTcsFields s pa = .ok ())
    (h3 : checkXsavePages s pa 0 (ssaPages s pa) = .ok pages) (h4 : checkGprArea s pa = .ok g)
    (h5 : badTarget s (tmpTarget s pa) = false) : EnterableUpToState s pa g :=
  { leaf := hl, dispatch := (paged h1).1, segments := (paged h1).2.1, page := (paged h1).2.2
    fields := (checkTcsFields_eq_ok_iff _ _).1 h2, xsave := xsaved h3, gpr := (checkGprArea_eq_ok_iff _ _ _).1 h4
    target := (badTarget_eq_false_iff _ _).1 h5 }

/-- Whose TCS is ACTIVE, or has a STATE of which only the highest bit is set, although everything else passes. -/
theorem witness_active :
    (EnterableUpToState (poke b64 tcs64 1) tcs64 gpr64 ∧ (tcsAt (poke b64 tcs64 1) tcs64).state ≠ 0)
    ∧ EnterableUpToState (poke b64 tcs64 0x8000000000000000) tcs64 gpr64
      ∧ (tcsAt (poke b64 tcs64 0x8000000000000000) tcs64).state ≠ 0 :=
  ⟨⟨upToState (pages := [0x80004000]) (by decide) (by decide) (by decide) (by decide) (by decide) (by decide), by decide⟩,
    upToState (pages := [0x80004000]) (by decide) (by decide) (by decide) (by decide) (by decide) (by decide), by decide⟩

/-- A state with EAX = 2 that EENTER faults in, by #GP(0). -/
theorem witness_fault : (poke b64 tcs64 1).lp.eax = 2 ∧ exec .encluEenter (poke b64 tcs64 1) = .fault .generalProtection :=
  ⟨by decide, execEncluEenter_of_error (by decide) (by decide)⟩

theorem witness_opt_out : Enterable b64 tcs64 gpr64 ∧ (tcsAt b64 tcs64).flags.getLsbD 0 = false := ⟨witness_enterable64, by decide⟩

/-- R46: the bytes before, at both ends of and after ELRANGE = 1000H to 1FFFH, and an ELRANGE of no byte. -/
theorem test_overlaps_elrange_ends :
    let cr := { CrRegs.reset with elrangeBase := 0x1000, elrangeSize := 0x1000 }
    overlapsElrange cr 0xFFF 1 = false ∧ overlapsElrange cr 0xFFF 2 = true ∧ overlapsElrange cr 0x1FFF 1 = true
    ∧ overlapsElrange cr 0x2000 1 = false ∧ overlapsElrange { cr with elrangeSize := 0 } 0xFFF 2 = false := by decide

theorem witness_opt_in : Enterable b32 tcs32 gpr32 ∧ (tcsAt b32 tcs32).flags.getLsbD 0 = true ∧ b32.lp.rflags.getLsbD 8 = true
    ∧ b32.lp.mtfControl = false ∧ b32.lp.pend.mtfVmExit = false := ⟨witness_enterable32, by decide⟩

/-- B32 with the monitor trap flag control set: without TF, so that only the VM exit pends, and with it, for both values of PEND_ORDER. -/
def trapped (rflags : Word) (order : PendOrder) : State :=
  { setLp b32 (fun l => { l with rflags := rflags, mtfControl := true }) with platform := { b32.platform with pendOrder := order } }

theorem enterable_trapped (rflags : Word) (order : PendOrder) (h : rflags = 2 ∨ rflags = 0x102) :
    Enterable (trapped rflags order) tcs32 gpr32 := by
  have hc : checkPhase (trapped rflags order) = .ok { tcsPa := tcs32, xsavePages := [0x90006000], gprPa := gpr32 } := by
    rcases h with rfl | rfl <;> cases order <;> decide
  exact enterable_of_checkPhase (s := trapped rflags order) rfl hc

theorem witness_mtf_alone : Enterable (trapped 2 .debugFirst) tcs32 gpr32
    ∧ (tcsAt (trapped 2 .debugFirst) tcs32).flags.getLsbD 0 = true
    ∧ (trapped 2 .debugFirst).lp.mtfControl = true
    ∧ (trapped 2 .debugFirst).lp.rflags.getLsbD 8 = false ∧ (trapped 2 .debugFirst).lp.pend.debugExceptions = [] :=
  ⟨enterable_trapped _ _ (.inl rfl), by decide⟩

/-- B32 with an MTF VM exit pending from before the entry and the control clear. -/
def mtfKept (rflags : Word) : State :=
  setLp b32 fun l => { l with rflags := rflags, pend := { l.pend with mtfVmExit := true } }

theorem enterable_mtfKept (rflags : Word) (h : rflags = 2 ∨ rflags = 0x102) : Enterable (mtfKept rflags) tcs32 gpr32 := by
  have hc : checkPhase (mtfKept rflags) = .ok { tcsPa := tcs32, xsavePages := [0x90006000], gprPa := gpr32 } := by
    rcases h with rfl | rfl <;> decide
  exact enterable_of_checkPhase (s := mtfKept rflags) rfl hc

/-- The kept MTF VM exit alone, and beside the single-step #DB. -/
theorem witness_mtf_kept :
    (Enterable (mtfKept 2) tcs32 gpr32 ∧ Enterable (mtfKept 0x102) tcs32 gpr32)
    ∧ ∀ s ∈ [mtfKept 2, mtfKept 0x102], (tcsAt s tcs32).flags.getLsbD 0 = true ∧ s.lp.mtfControl = false ∧ s.lp.pend.mtfVmExit = true
        ∧ s.lp.pend.debugExceptions = [] :=
  ⟨⟨enterable_mtfKept _ (.inl rfl), enterable_mtfKept _ (.inr rfl)⟩, by decide⟩

theorem witness_mtf_and_debug : ∀ order : PendOrder, Enterable (trapped 0x102 order) tcs32 gpr32
    ∧ (tcsAt (trapped 0x102 order) tcs32).flags.getLsbD 0 = true ∧ (trapped 0x102 order).lp.mtfControl = true
    ∧ (trapped 0x102 order).lp.rflags.getLsbD 8 = true ∧ (trapped 0x102 order).platform.pendOrder = order := fun order =>
  ⟨enterable_trapped _ _ (.inr rfl), by cases order <;> decide⟩

theorem witness_stores : Enterable b64 tcs64 gpr64 ∧ Memory.wf b64.mem = true ∧ LayoutOk b64.platform ∧ BaseAligned b64 tcs64 :=
  ⟨witness_enterable64, by decide⟩

/-- Both ends of the loop: the last page of an area of 4096 bytes, and with `SSA_LOOP_INCLUSIVE` the page after it. -/
theorem witness_loop :
    let s1 := { b64 with platform := { b64.platform with xsaveSizes := [(3, 4096)] } }
    let s2 := { b32 with platform := { b32.platform with xsaveSizes := [(3, 4096)], ssaLoopInclusive := true } }
    (BaseAligned s1 tcs64 ∧ Aligned4K (tcsAt s1 tcs64).ossa ∧ s1.platform.ssaLoopInclusive = false ∧ ssaPages s1 tcs64 = 1)
    ∧ BaseAligned s2 tcs32 ∧ Aligned4K (tcsAt s2 tcs32).ossa ∧ s2.platform.ssaLoopInclusive = true ∧ ssaPages s2 tcs32 = 2 := by
  decide

/-- CR4.OSXSAVE = 1 and = 0. -/
theorem witness_osxsave : b64.lp.osxsave = true ∧ b32.lp.osxsave = false := by decide

/-- A sibling that counts in AnyThread mode. -/
def counting : State :=
  { b64 with others := [{ LogicalProcessor.reset with id := 1, pmu := { LogicalProcessor.reset.pmu with anyThreadCounting := true } }]
             platform := { b64.platform with siblings := [(0, 1)] } }

theorem witness_sibling : Enterable counting tcs64 gpr64 ∧ (tcsAt counting tcs64).flags.getLsbD 0 = false
    ∧ ∃ o, counting.others[0]? = some o ∧ (counting.lp.id, o.id) ∈ counting.platform.siblings ∧ o.pmu.anyThreadCounting = true :=
  ⟨enterable_of_checkPhase (e := entry64) (by decide) (by decide),
    by decide, _, rfl, by decide, by decide⟩

/-! ## Witnesses: what an entry does not depend on -/

theorem witness_rax : (0xFFFFFFFF00000002 : Word).setWidth 32 = b64.lp.gpr.rax.setWidth 32 := by decide

theorem witness_upper_halves : b32.lp.mode64 = false
    ∧ (0xFFFFFFFF10003000 : Word).setWidth 32 = b32.lp.gpr.rbx.setWidth 32
    ∧ (0xFFFFFFFF08048123 : Word).setWidth 32 = b32.lp.gpr.rcx.setWidth 32
    ∧ (0xFFFFFFFFBFFFF000 : Word).setWidth 32 = b32.lp.gpr.rsp.setWidth 32
    ∧ (0xFFFFFFFFBFFFF040 : Word).setWidth 32 = b32.lp.gpr.rbp.setWidth 32
    ∧ (0xFFFFFFFF08048100 : Word).setWidth 32 = b32.lp.rip.setWidth 32 := by decide

/-- A CS of another base and limit with the same L. -/
theorem witness_segments64 : b64.lp.mode64 = true ∧ (seg 0 1 0 (rw 0b0111 0 true)).ar.l = b64.lp.cs.ar.l := by decide

/-! ## Witnesses: sharing and the invariants -/

/-- A logical processor that is in the enclave of B64 through another TCS, after an opt-out entry. -/
def inside : LogicalProcessor :=
  { LogicalProcessor.reset with
    id := 1
    fs := swappedSegment Segment.resetData 0 0xFFF
    gs := swappedSegment Segment.resetData 0 0xFFF
    dbg := { suppressCodeBpOutsideElrange := true, suppressCodeBpInElrange := true, suppressDataBpInElrange := true, mtfSuppressed := true }
    pmu := { LogicalProcessor.reset.pmu with suppressed := true, pebsSuppressed := true }
    cr := { CrRegs.reset with enclaveMode := true, tcsPa := 0x80006000 } }

/-- B64 with that logical processor beside the executing one. -/
def b64Two : State :=
  { poke b64 0x80006000 1 with
    others := [inside], order := [0], epcm := (0x80006, tcsPage 0x7F0000006000 0x80000000) :: b64.epcm }

theorem b64Two_tcs {p : PhysAddr} (h : (epcmAt b64Two p).pt = .ptTcs) : pageNumber p = 0x80006 ∨ pageNumber p = 0x80003 := by
  by_contra hn
  rw [not_or] at hn
  revert h
  simp only [epcmAt, b64Two, b64, epcmLookup, if_neg (Ne.symm hn.1), if_neg (Ne.symm hn.2)]
  split_ifs <;> decide

theorem witness_built : EnclavesBuilt b64Two := by
  intro p h
  have hs : tmpSecs b64Two p = 0x80000000 := by
    unfold tmpSecs epcmAt
    rcases b64Two_tcs h with h | h <;> rw [h] <;> decide
  unfold BaseAligned secsAt
  rw [hs]
  decide

theorem witness_keeps_secs : Enterable b64Two tcs64 gpr64 ∧ LayoutOk b64Two.platform ∧ EnclavesBuilt b64Two :=
  ⟨enterable_of_checkPhase (e := entry64) (by decide) (by decide), by decide, witness_built⟩

theorem mem_b64Two {l : LogicalProcessor} (h : l ∈ processors b64Two) (hm : l.cr.enclaveMode = true) : l = inside := by
  simp only [processors, b64Two, List.mem_cons, List.not_mem_nil, or_false] at h
  rcases h with rfl | rfl
  · exact absurd hm (by decide)
  · rfl

/-- Memory in canonical form, one logical processor in an enclave, and a step that takes the other into it. -/
theorem witness_step_keeps : Memory.wf b64Two.mem = true ∧ ∃ t, step b64Two = .next t := ⟨by decide, next_of (by decide)⟩

/-- Of a step: the order names the one other logical processor, none of the others, or nothing. -/
theorem witness_order :
    nextIs (step b64Two) (fun t => (t.lp.id, t.others.map (·.id), t.order)) = some (1, [0], [])
    ∧ nextIs (step { b64Two with order := [1, 0] }) (fun t => (t.lp.id, t.others.map (·.id), t.order)) = some (0, [1], [0])
    ∧ nextIs (step { b64Two with order := [] }) (fun t => (t.lp.id, t.others.map (·.id), t.order)) = some (0, [1], []) := by decide

theorem witness_set_up : EnclaveModeInv b64Two := by
  intro l hl hm
  rw [mem_b64Two hl hm]
  exact ⟨by decide, ⟨by decide, by decide, by decide, by decide⟩, ⟨by decide, by decide, by decide, by decide⟩, by decide, by decide, by decide⟩

theorem witness_exclusive : TcsExclusive b64Two where
  wf := by decide
  layout := by decide
  built := witness_built
  held := fun l hl hm => by
    rw [mem_b64Two hl hm]
    exact ⟨by decide, by decide, by decide⟩
  distinct := by
    exact List.pairwise_cons.2 ⟨fun b _ ha => absurd ha (by decide), List.pairwise_singleton _ _⟩

/-- The second of two entries through one TCS: every other check passes on the state that the first one left. -/
theorem witness_second_entry : ∃ t s', exec .encluEenter b64 = .next t ∧ s'.mem = t.mem
    ∧ s'.platform.tcsLayout = t.platform.tcsLayout ∧ EnterableUpToState s' tcs64 gpr64 :=
  ⟨_, { b64 with mem := memAfter b64 entry64 }, execEncluEenter_of_ok (e := entry64) (by decide) (by decide), (commit_mem b64 entry64).symm, rfl,
    upToState (pages := [0x80004000]) (by decide) (by decide) (by decide) (by decide) (by decide) (by decide)⟩

end Sys2Proof.Tests
end

/-! ## The step: what runs, and who executes next -/

namespace Sys2Proof.Machine

/-- With no event due, the step is the decoded instruction at this state, followed by the end of the step (R17). -/
theorem step_of_decode {s : State} {bytes rest : List Byte} {i : Instr} (hdue : dueEvent s = none)
    (hfetch : fetch s = .ok bytes) (hdecode : decode s.platform.encluBytes bytes = .ok (i, rest)) :
    step s = finishStep (exec i s) := by
  simp only [step, hdue, hfetch, hdecode]

/-- A number that names none of the other logical processors is dropped, and the executing one goes on (log 12). -/
theorem advance_of_others_none {s : State} {n : Nat} {rest : List Nat} (horder : s.order = n :: rest)
    (hnone : s.others[n]? = none) : advance s = { s with order := rest } := by
  simp only [advance, horder, hnone]

/-- The logical processor that the order names and the executing one change places (R211, log 12). -/
theorem advance_of_others_some {s : State} {n : Nat} {rest : List Nat} {o : LogicalProcessor}
    (horder : s.order = n :: rest) (hsome : s.others[n]? = some o) :
    advance s = { s with lp := o, others := s.others.set n s.lp, order := rest } := by
  simp only [advance, horder, hsome]

/-- Settles O5: the step is the end of `exec i s`, read off for each of its three outcomes; `advance` by the cases of the order. -/
theorem stepRunsDecodedInstruction : Obligations.StepRunsDecodedInstruction := by
  intro s bytes rest i hdue hfetch hdecode
  have hstep : step s = finishStep (exec i s) := step_of_decode hdue hfetch hdecode
  refine ⟨fun t hnext => ⟨?_, advance_of_order_nil, fun n rest' horder => ⟨?_, ?_⟩⟩, fun f hfault => ?_, fun r hrefused => ?_⟩
  · rw [hstep, hnext, finishStep_next]
  · exact advance_of_others_none horder
  · exact fun o => advance_of_others_some horder
  · rw [hstep, hfault, finishStep_fault]
  · rw [hstep, hrefused, finishStep_refused]

end Sys2Proof.Machine

/-! ## Where the instruction enters and where it faults -/

namespace Sys2Proof.Machine

open Sys2Proof.Safety

/-- 64-bit mode against everything else, in register bits (R27, R120; GK11). -/
theorem mode64_iff (lp : LogicalProcessor) : lp.mode64 = true ↔ lp.efer.getLsbD 10 = true ∧ lp.cs.ar.l = true := by
  simp [LogicalProcessor.mode64, LogicalProcessor.lma]

/-- Where the conditions of R265 hold, the instruction commits the entry with the XSAVE pages that the loop found. -/
theorem exec_of_enterable {s : State} {pa g : PhysAddr} (h : Enterable s pa g) :
    ∃ pages, checkXsavePages s pa 0 (ssaPages s pa) = .ok pages
      ∧ exec .encluEenter s = .next (commit s { tcsPa := pa, xsavePages := pages, gprPa := g }) := by
  obtain ⟨pages, hpages, hcheck⟩ := checkPhase_of_enterable h
  exact ⟨pages, hpages, execEncluEenter_of_ok h.leaf hcheck⟩

/-- The instruction faults exactly as its check phase does, with EAX = 02H (R161, R230). -/
theorem exec_eq_fault_iff (s : State) (f : Fault) : exec .encluEenter s = .fault f ↔ s.lp.eax = 2 ∧ checkPhase s = .error f := by
  refine ⟨fun h => ?_, fun ⟨hleaf, hcheck⟩ => execEncluEenter_of_error hleaf hcheck⟩
  rw [exec_encluEenter] at h
  rcases execEncluEenter_cases s with ⟨-, hexec⟩ | ⟨hleaf, g, hcheck, hexec⟩ | ⟨-, e, -, hexec⟩ <;> rw [hexec] at h
  · exact absurd h (by simp)
  · obtain rfl := Host.Outcome.fault.inj h
    exact ⟨hleaf, hcheck⟩
  · exact absurd h (by simp)

/-- Without the conditions of R265 the check phase raises a fault. -/
theorem checkPhase_error_of_not_enterable {s : State} (hleaf : s.lp.eax = 2) (h : ¬∃ pa g, Enterable s pa g) :
    ∃ f, checkPhase s = .error f := by
  cases hcheck : checkPhase s with
  | ok e => exact absurd ⟨e.tcsPa, e.gprPa, enterable_of_checkPhase hleaf hcheck⟩ h
  | error f => exact ⟨f, rfl⟩

/-- Settles O29: the check phase passes exactly under the conditions of R265, so the instruction commits or faults as they hold or not. -/
theorem entersExactlyWhen : Obligations.EntersExactlyWhen := by
  intro s
  refine ⟨mode64_iff s.lp, rfl, rfl, fun hleaf => ⟨?_, fun hnot => ?_⟩⟩
  · rintro ⟨pa, g, henter⟩
    obtain ⟨pages, -, hexec⟩ := exec_of_enterable henter
    exact ⟨_, hexec⟩
  · obtain ⟨f, hcheck⟩ := checkPhase_error_of_not_enterable hleaf hnot
    exact ⟨f, (exec_eq_fault_iff s f).2 ⟨hleaf, hcheck⟩⟩

/-! ### The first checks -/

/-- The first stage of the check phase decides when it fails (R118, R119, R230). -/
theorem checkPhase_of_checkEnclu_error {s : State} {f : Fault} (h : checkEnclu s.lp = .error f) : checkPhase s = .error f :=
  (unit_bind_eq_error_iff _ _ _).2 (.inl h)

/-- The segment checks decide when they fail after the first stage has passed (R121 to R125, R230). -/
theorem checkPhase_of_checkSegments_error {s : State} {f : Fault} (hdispatch : DispatchOk s.lp)
    (h : checkSegments s.lp = .error f) : checkPhase s = .error f :=
  (unit_bind_eq_error_iff _ _ _).2
    (.inr ⟨(checkEnclu_eq_ok_iff _).2 hdispatch, (unit_bind_eq_error_iff _ _ _).2 (.inl h)⟩)

/-- Segments that are not as R121 to R125 demand raise `#GP(0)`. -/
theorem checkSegments_of_not_segmentsOk {lp : LogicalProcessor} (h : ¬SegmentsOk lp) : checkSegments lp = .error gp0 := by
  cases hcheck : checkSegments lp with
  | ok u => exact absurd ((checkSegments_eq_ok_iff lp).1 hcheck) h
  | error f => rw [checkSegments_error hcheck]

/-- Settles O11: both faults are raised by the first stage of the check phase. -/
theorem dispatchFaults : Obligations.DispatchFaults := by
  intro s hleaf
  refine ⟨fun f hpre => ?_, fun hpre hmode => ?_⟩
  · exact execEncluEenter_of_error hleaf
      (checkPhase_of_checkEnclu_error ((checkEnclu_eq_error_iff _ _).2 (.inl hpre)))
  · exact execEncluEenter_of_error hleaf
      (checkPhase_of_checkEnclu_error ((checkEnclu_eq_error_iff _ _).2 (.inr ⟨hpre, hmode, rfl⟩)))

/-- The low 32 bits of a base as a bit vector and as a number (R32). -/
theorem setWidth32_eq_zero_iff (v : Word) : v.setWidth 32 = 0#32 ↔ v.toNat % 2 ^ 32 = 0 := by
  rw [← BitVec.toNat_inj, BitVec.toNat_setWidth, BitVec.toNat_zero]

/-- Settles O12: each of the seven is against a condition of item 2 of R265, and those are what the segment checks test. -/
theorem segmentFaults : Obligations.SegmentFaults := by
  intro s hleaf hdispatch hmode hbad
  have hnot : ¬SegmentsOk s.lp := by
    intro hok
    obtain ⟨hds, hexpand, hcs0, hds0, hes, hss⟩ := hok hmode
    rw [setWidth32_eq_zero_iff] at hcs0 hds0 hes hss
    rcases hbad with hun | hdown | hcs | hdsb | ⟨hun, hb⟩ | ⟨hun, hb⟩ | ⟨hun, hb⟩
    · simp [hds] at hun
    · exact hexpand hdown
    · exact hcs hcs0
    · exact hdsb hds0
    · exact hb (hes.resolve_left (by simp [hun]))
    · exact hb (hss.resolve_left (by simp [hun])).1
    · simp [hb, hun] at hss
  exact execEncluEenter_of_error hleaf
    (checkPhase_of_checkSegments_error hdispatch (checkSegments_of_not_segmentsOk hnot))

end Sys2Proof.Machine

/-! ## What a successful entry writes and leaves -/

namespace Sys2Proof.Machine

open Sys2Proof.Safety

/-! ### The registers of the executing logical processor -/

/-- The address of the next instruction is the exact sum reduced modulo 2^XLEN (R24, R110; D3). -/
theorem nextRip_toNat (s : State) :
    (nextRip s).toNat = (s.lp.rip.toNat + s.platform.encluBytes.length) % (if s.lp.mode64 then 2 ^ 64 else 2 ^ 32) := by
  simp only [nextRip, truncXlen_toNat, BitVec.toNat_add, BitVec.toNat_ofNat]
  cases s.lp.mode64 <;> simp

/-- Settles O30: RCX, RIP and RAX are the values of `gprAfter` and `lpAfter`, which writes no other general register. -/
theorem entryWritesRegisters : Obligations.EntryWritesRegisters := by
  intro s pa g henter
  obtain ⟨pages, -, hexec⟩ := exec_of_enterable henter
  exact ⟨_, hexec, nextRip_toNat s, rfl, rfl, rfl⟩

/-- A page that the loop visited is remembered (R154). -/
theorem getD_xsavePagesAfter_of_lt (old : List PhysAddr) {new : List PhysAddr} {n : Nat} {p : PhysAddr}
    (h : new[n]? = some p) : (xsavePagesAfter old new).getD n 0 = p := by
  have hlt : n < new.length := (List.getElem?_eq_some_iff.1 h).1
  rw [xsavePagesAfter, List.getD_eq_getElem?_getD, List.getElem?_append_left hlt, h, Option.getD_some]

/-- Beyond the last page visited the old value stays (R44). -/
theorem getD_xsavePagesAfter_of_ge (old : List PhysAddr) {new : List PhysAddr} {n : Nat} (h : new.length ≤ n) :
    (xsavePagesAfter old new).getD n 0 = old.getD n 0 := by
  rw [xsavePagesAfter, List.getD_eq_getElem?_getD, List.getElem?_append_right h, List.getElem?_drop,
    Nat.add_sub_cancel' h, List.getD_eq_getElem?_getD]

/-- Settles O32: the loop hands on one physical address for each page, and `xsavePagesAfter` puts them before the old values. -/
theorem entryRemembersXsavePages : Obligations.EntryRemembersXsavePages := by
  intro s pa g henter
  obtain ⟨pages, hpages, hexec⟩ := exec_of_enterable henter
  obtain ⟨hlength, hpage⟩ := (checkXsavePages_eq_ok_iff _ _ _ _ _).1 hpages
  refine ⟨_, hexec, fun n hn => ?_, fun n hn => ?_⟩
  · obtain ⟨p, hp, hok⟩ := hpage n hn
    have hcr : (crAfter s { tcsPa := pa, xsavePages := pages, gprPa := g }).xsavePage n = p :=
      getD_xsavePagesAfter_of_lt _ hp
    rw [Nat.zero_add] at hok
    rw [commit_lp, lpAfter_cr, hcr]
    exact hok.1
  · exact getD_xsavePagesAfter_of_ge _ (hlength ▸ hn)

/-- The type that FS and GS get: `0 ++ 0 ++ W ++ 1` (R182, R183; W is bit 1 of the type, GK8). -/
theorem typeWithW_swapType (w : Bool) :
    typeWithW Config.swapType w = (0b00 : BitVec 2) ++ BitVec.ofBool w ++ (1 : BitVec 1) := by
  cases w <;> rfl

/-- Settles O34: FS and GS are `swappedSegment` of DS, with the bases and limits of the TCS. -/
theorem entryRebuildsFsAndGs : Obligations.EntryRebuildsFsAndGs := by
  intro s pa g henter
  obtain ⟨pages, -, hexec⟩ := exec_of_enterable henter
  refine ⟨_, hexec, ?_, rfl⟩
  rw [commit_lp, lpAfter_fs, fsAfter, swappedSegment, typeWithW_swapType]
  rfl

/-! ### Bits of flags and of the status register -/

theorem getLsbD_withBit (v : Word) (i : Nat) (b : Bool) (j : Nat) :
    (withBit v i b).getLsbD j = if j = i then b && decide (j < 64) else v.getLsbD j := by
  by_cases hj : j < 64
  · unfold withBit
    obtain rfl | hji := eq_or_ne j i
    · cases b <;> simp [hj]
    · cases b <;> simp [hj, hji]
  · simp [hj, BitVec.getLsbD_of_ge _ _ (Nat.le_of_not_lt hj)]

/-- Setting a status bit clears none (R30). -/
theorem getLsbD_setStatusBit (v : Word) (i : Nat) (b : Bool) (j : Nat) :
    (setStatusBit v i b).getLsbD j = (v.getLsbD j || (b && decide (j = i ∧ j < 64))) := by
  unfold setStatusBit
  cases b with
  | false => simp
  | true =>
    rw [if_pos rfl, getLsbD_withBit]
    by_cases hj : j < 64
    · obtain rfl | hji := eq_or_ne j i
      · simp [hj]
      · simp [hji]
    · simp [hj, BitVec.getLsbD_of_ge _ _ (Nat.le_of_not_lt hj)]

/-- An entry affects no flag but TF (R195 (c), R200). -/
theorem getLsbD_rflagsAfterEntry_of_ne (rflags : Word) (optIn : Bool) {i : Nat} (h : i ≠ tfBit) :
    (rflagsAfterEntry rflags optIn).getLsbD i = rflags.getLsbD i := by
  cases optIn with
  | true => rfl
  | false => rw [rflagsAfterEntry, if_neg Bool.false_ne_true, getLsbD_withBit, if_neg h]

/-- Settles O38: `commit` and `lpAfter` write none of these fields, and of RFLAGS an entry affects TF only. -/
theorem entryLeavesUnchanged : Obligations.EntryLeavesUnchanged := by
  intro s pa g henter
  obtain ⟨pages, -, hexec⟩ := exec_of_enterable henter
  exact ⟨_, hexec, rfl, rfl, rfl, rfl, rfl, rfl, rfl, fun i hi => getLsbD_rflagsAfterEntry_of_ne _ _ hi,
    rfl, rfl, rfl, rfl, rfl, rfl, rfl⟩

/-- The status bits after an entry: those before it, and on an opt-out entry bits 60 and 63 where the free values set them (R206, log 8). -/
theorem getLsbD_perfGlobalStatusAfter (s : State) (e : Entry) (i : Nat) :
    (perfGlobalStatusAfter s e).getLsbD i = (s.lp.perfGlobalStatus.getLsbD i
      || (!optIn s e && ((Config.freeBit s.freeNext && decide (i = 60)) || (Config.freeBit (s.freeNext + 1) && decide (i = 63))))) := by
  unfold perfGlobalStatusAfter
  cases optIn s e with
  | true => simp
  | false =>
    have h60 : (i = 60 ∧ i < 64) ↔ i = 60 := by omega
    have h63 : (i = 63 ∧ i < 64) ↔ i = 63 := by omega
    simp only [Bool.false_eq_true, if_false, getLsbD_setStatusBit, h60, h63, Bool.not_false, Bool.true_and, Bool.or_assoc]

/-- Settles O47, for every choice of the free values: the status bits are the old ones or more, more only at 60 and 63. -/
theorem entryNeverClearsStatusBits : Obligations.EntryNeverClearsStatusBits := by
  intro s pa g henter
  obtain ⟨pages, -, hexec⟩ := exec_of_enterable henter
  refine ⟨_, hexec, fun i => ?_⟩
  rw [commit_lp, lpAfter_perfGlobalStatus, getLsbD_perfGlobalStatusAfter]
  refine ⟨fun h60 h63 => ?_, fun hset => ?_⟩
  · simp [h60, h63]
  · simp [hset]

end Sys2Proof.Machine

/-! ## What an entry does not read of the general registers and of RIP -/

namespace Sys2Proof.Machine

open Sys2Proof.Safety

/-- The state with other general registers and another RIP of the executing logical processor. -/
def State.withRegs (s : State) (gpr : Gprs) (rip : Word) : State := { s with lp := { s.lp with gpr := gpr, rip := rip } }

@[simp] theorem withRegs_lp_gpr (s : State) (gpr : Gprs) (rip : Word) : (s.withRegs gpr rip).lp.gpr = gpr := rfl
@[simp] theorem withRegs_lp_rip (s : State) (gpr : Gprs) (rip : Word) : (s.withRegs gpr rip).lp.rip = rip := rfl
@[simp] theorem withRegs_mode64 (s : State) (gpr : Gprs) (rip : Word) : (s.withRegs gpr rip).lp.mode64 = s.lp.mode64 := rfl

/-! ### The check phase reads RBX as the TCS's address, and RCX in 64-bit mode only -/

theorem checkEnclavePage_withRegs (s : State) (gpr : Gprs) (rip : Word) (secs : PhysAddr) (cause : Config.PfCause) (a : LinAddr) :
    checkEnclavePage (s.withRegs gpr rip) secs cause a = checkEnclavePage s secs cause a := rfl

theorem checkXsavePages_withRegs (s : State) (gpr : Gprs) (rip : Word) (pa : PhysAddr) (n count : Nat) :
    checkXsavePages (s.withRegs gpr rip) pa n count = checkXsavePages s pa n count := by
  induction count generalizing n with
  | zero => rfl
  | succ count ih =>
    simp only [checkXsavePages, ih, checkEnclavePage_withRegs]
    rfl

theorem checkTcsPage_withRegs {s : State} {gpr : Gprs} {rip : Word}
    (hrbx : linear s.lp.mode64 s.lp.ds gpr.rbx = tcsLinear s.lp) (hrcx : s.lp.mode64 = true → gpr.rcx = s.lp.gpr.rcx) :
    checkTcsPage (s.withRegs gpr rip) = checkTcsPage s := by
  have htcs : tcsLinear (s.withRegs gpr rip).lp = tcsLinear s.lp := hrbx
  have haep : ((s.withRegs gpr rip).lp.mode64 && !canonical (s.withRegs gpr rip).platform.laWidth (aepLinear (s.withRegs gpr rip).lp))
      = (s.lp.mode64 && !canonical s.platform.laWidth (aepLinear s.lp)) := by
    change (s.lp.mode64 && !canonical s.platform.laWidth (linear s.lp.mode64 s.lp.cs gpr.rcx)) = _
    cases hmode : s.lp.mode64 with
    | false => rfl
    | true => rw [hrcx hmode, aepLinear, hmode]
  unfold checkTcsPage
  rw [htcs, haep]
  rfl

/-- The check phase of two states that differ in the general registers and RIP is the same, when RBX gives the same TCS address and,
in 64-bit mode, RCX is the same. -/
theorem checkPhase_withRegs {s : State} {gpr : Gprs} {rip : Word}
    (hrbx : linear s.lp.mode64 s.lp.ds gpr.rbx = tcsLinear s.lp) (hrcx : s.lp.mode64 = true → gpr.rcx = s.lp.gpr.rcx) :
    checkPhase (s.withRegs gpr rip) = checkPhase s := by
  unfold checkPhase
  simp only [checkTcsPage_withRegs hrbx hrcx, checkXsavePages_withRegs]
  rfl

/-! ### RAX above EAX -/

/-- Settles O50: the check phase reads no RAX, and the commit phase overwrites it. -/
theorem upperHalfOfRaxIgnored : Obligations.UpperHalfOfRaxIgnored := by
  intro s v heax
  change execEncluEenter (s.withRegs { s.lp.gpr with rax := v } s.lp.rip) = execEncluEenter s
  have hleaf : (s.withRegs { s.lp.gpr with rax := v } s.lp.rip).lp.eax = s.lp.eax := heax
  have hcheck : checkPhase (s.withRegs { s.lp.gpr with rax := v } s.lp.rip) = checkPhase s :=
    checkPhase_withRegs rfl fun _ => rfl
  have hcommit : ∀ e, commit (s.withRegs { s.lp.gpr with rax := v } s.lp.rip) e = commit s e := fun _ => rfl
  simp only [execEncluEenter, hleaf, hcheck, hcommit]

/-! ### The upper halves outside 64-bit mode -/

/-- Outside 64-bit mode two words with the same low half count alike (R9, D3). -/
theorem truncXlen_false_congr {v w : Word} (h : v.setWidth 32 = w.setWidth 32) : truncXlen false v = truncXlen false w := by
  simp only [truncXlen, Bool.false_eq_true, if_false, h]

theorem setWidth32_add_congr {v v' w w' : Word} (hv : v.setWidth 32 = v'.setWidth 32) (hw : w.setWidth 32 = w'.setWidth 32) :
    (v + w).setWidth 32 = (v' + w').setWidth 32 := by
  rw [BitVec.setWidth_add _ _ (by decide), BitVec.setWidth_add _ _ (by decide), hv, hw]

/-- Two sets of registers that count alike outside 64-bit mode, in what EENTER reads of them. -/
structure SameLowHalves (gpr gpr' : Gprs) (rip rip' : Word) : Prop where
  rbx : gpr'.rbx.setWidth 32 = gpr.rbx.setWidth 32
  rcx : gpr'.rcx.setWidth 32 = gpr.rcx.setWidth 32
  rsp : gpr'.rsp.setWidth 32 = gpr.rsp.setWidth 32
  rbp : gpr'.rbp.setWidth 32 = gpr.rbp.setWidth 32
  rip : rip'.setWidth 32 = rip.setWidth 32

section
variable {s : State} {gpr : Gprs} {rip : Word} (hmode : s.lp.mode64 = false) (hlow : SameLowHalves s.lp.gpr gpr s.lp.rip rip)
include hmode hlow

theorem checkPhase_of_sameLowHalves : checkPhase (s.withRegs gpr rip) = checkPhase s := by
  refine checkPhase_withRegs ?_ fun h64 => absurd (hmode.symm.trans h64) Bool.false_ne_true
  rw [tcsLinear, hmode]
  exact truncXlen_false_congr (setWidth32_add_congr rfl hlow.rbx)

theorem memAfter_of_sameLowHalves (e : Entry) : memAfter (s.withRegs gpr rip) e = memAfter s e := by
  simp only [memAfter, withRegs_mode64, withRegs_lp_gpr, hmode, truncXlen_false_congr hlow.rcx, truncXlen_false_congr hlow.rsp,
    truncXlen_false_congr hlow.rbp]
  rfl

theorem nextRip_of_sameLowHalves : nextRip (s.withRegs gpr rip) = nextRip s := by
  rw [nextRip, nextRip, withRegs_mode64, hmode]
  exact truncXlen_false_congr (setWidth32_add_congr hlow.rip rfl)

theorem crAfter_of_sameLowHalves (e : Entry) : crAfter (s.withRegs gpr rip) e = crAfter s e := by
  simp only [crAfter, withRegs_mode64, withRegs_lp_gpr, hmode, truncXlen_false_congr hlow.rbx]
  rfl

end

/-- Settles O51: the check phase and every value the entry writes read these registers at 32 bits. -/
theorem upperHalvesIgnoredOutside64 : Obligations.UpperHalvesIgnoredOutside64 := by
  intro s s' rbx rcx rsp rbp rip hmode hrbx hrcx hrsp hrbp hrip hs'
  have hlow : SameLowHalves s.lp.gpr { s.lp.gpr with rbx := rbx, rcx := rcx, rsp := rsp, rbp := rbp } s.lp.rip rip :=
    ⟨hrbx, hrcx, hrsp, hrbp, hrip⟩
  change s' = s.withRegs _ _ at hs'
  have heax : s'.lp.eax = s.lp.eax := by rw [hs']; rfl
  have hcheck : checkPhase s' = checkPhase s := by rw [hs', checkPhase_of_sameLowHalves hmode hlow]
  refine ⟨fun f hfault => ?_, fun t hnext => ?_⟩
  · rwa [exec_eq_fault_iff, heax, hcheck, ← exec_eq_fault_iff]
  · obtain ⟨hleaf, e, he, rfl⟩ := execEncluEenter_next hnext
    refine ⟨commit s' e, execEncluEenter_of_ok (heax.trans hleaf) (hcheck.trans he), ?_⟩
    rw [hs']
    refine ⟨?_, rfl, rfl, nextRip_of_sameLowHalves hmode hlow, crAfter_of_sameLowHalves hmode hlow e⟩
    rw [commit_mem, commit_mem, memAfter_of_sameLowHalves hmode hlow]

end Sys2Proof.Machine

/-! ## Reset, and what every step keeps -/

namespace Sys2Proof.Machine

open Sys2Proof.Safety

/-- Settles O55: each is the value that `State.reset` writes out. -/
theorem resetValues : Obligations.ResetValues :=
  ⟨rfl, rfl, rfl, rfl, rfl, rfl, rfl, rfl⟩

/-- The EPCM lists no page at reset, so it has no PT_TCS page (log 2). -/
theorem reset_pt_ne_tcs (p : PhysAddr) : (epcmAt State.reset p).pt ≠ .ptTcs := by
  change PageType.ptReg ≠ .ptTcs
  decide

/-- The one logical processor at reset is not in enclave mode (R60, R261). -/
theorem not_enclaveMode_of_mem_processors_reset {l : LogicalProcessor} (h : l ∈ processors State.reset) :
    l.cr.enclaveMode = false := by
  rw [List.mem_singleton.1 h]
  rfl

/-- The spec's default layouts are layouts (D11 to D13). -/
theorem reset_layoutOk : LayoutOk State.reset.platform := by decide

/-- Settles O56: with no logical processor in enclave mode and no PT_TCS page, each invariant asks only for the memory and the layouts. -/
theorem resetMeetsInvariants : Obligations.ResetMeetsInvariants :=
  ⟨Memory.wf_nil,
    fun _ hl hmode => absurd hmode (by simp [not_enclaveMode_of_mem_processors_reset hl]),
    { wf := Memory.wf_nil
      layout := reset_layoutOk
      built := fun p hp => absurd hp (reset_pt_ne_tcs p)
      held := fun _ hl hmode => absurd hmode (by simp [not_enclaveMode_of_mem_processors_reset hl])
      distinct := List.pairwise_singleton _ _ }⟩

/-- Settles O57: a step that answers is an entry's commit phase, which writes memory in canonical form and none of the rest. -/
theorem stepKeepsMemoryCanonical : Obligations.StepKeepsMemoryCanonical := by
  intro s t hwf hstep
  obtain ⟨-, -, e, -, rfl⟩ := step_next hstep
  refine ⟨?_, by simp, by simp, by simp, by simp⟩
  rw [advance_mem, commit_mem]
  exact memAfter_wf hwf e

/-- A demotion shows only in the performance-monitoring fields (R205). -/
theorem demoteAnyThread_frame (p : Platform) (id : Nat) (t : LogicalProcessor) :
    (demoteAnyThread p id t).id = t.id ∧ (demoteAnyThread p id t).cr = t.cr := by
  unfold demoteAnyThread
  split <;> exact ⟨rfl, rfl⟩

/-- What a demotion leaves alone, an entry leaves alone in every other logical processor (R253). -/
theorem map_othersAfter {α : Type} (f : LogicalProcessor → α) (s : State) (e : Entry)
    (hf : ∀ t, f (demoteAnyThread s.platform s.lp.id t) = f t) : (othersAfter s e).map f = s.others.map f := by
  unfold othersAfter
  split
  · rfl
  · rw [List.map_map]
    exact List.map_congr_left fun t _ => hf t

/-- How many are in enclave mode depends on the enclave-mode bits alone. -/
theorem countP_enclaveMode_congr {l l' : List LogicalProcessor} (h : l.map (·.cr.enclaveMode) = l'.map (·.cr.enclaveMode)) :
    l.countP (fun o => o.cr.enclaveMode) = l'.countP (fun o => o.cr.enclaveMode) := by
  simpa only [List.countP_map, Function.id_comp] using congrArg (List.countP id) h

/-- Settles O58: the entry sets the executing logical processor's enclave mode, clear by R119, and leaves the others'; `advance` permutes. -/
theorem stepEntersEnclaveModeOnce : Obligations.StepEntersEnclaveModeOnce := by
  intro s t hstep
  obtain ⟨-, -, e, hcheck, rfl⟩ := step_next hstep
  have hbefore : s.lp.cr.enclaveMode = false := ((checkPhase_eq_ok_iff s e).1 hcheck).1.2
  have hids : (othersAfter s e).map (·.id) = s.others.map (·.id) :=
    map_othersAfter _ s e fun t => (demoteAnyThread_frame _ _ t).1
  have hmodes : (othersAfter s e).map (·.cr.enclaveMode) = s.others.map (·.cr.enclaveMode) :=
    map_othersAfter _ s e fun t => by rw [(demoteAnyThread_frame _ _ t).2]
  have hperm : (processors (advance (commit s e))).Perm (processors (commit s e)) := advance_perm _
  refine ⟨⟨commit s e, rfl, rfl, hbefore, rfl, hids, hmodes⟩, ?_, ?_⟩
  · have hlength : (othersAfter s e).length = s.others.length := by simpa using congrArg List.length hids
    rw [hperm.length_eq]
    simp [processors, hlength]
  · rw [hperm.countP_eq]
    simp [processors, List.countP_cons, hbefore, countP_enclaveMode_congr hmodes]

end Sys2Proof.Machine

/-! ## The fetch -/

namespace Sys2Proof.Machine

/-! ### One byte, and `count` of them -/

/-- A byte is the one-byte field at its address (R74, R76). -/
theorem ofNat_readLe_one (m : Memory) (pa : PhysAddr) : BitVec.ofNat 8 (Memory.readLe m pa 1) = Memory.byte m pa.toNat := by
  simp [Memory.readLe]

/-- The fetch of one byte more, as a sequence: its translation, then the rest. -/
theorem fetchBytes_succ (s : State) (k count : Nat) :
    fetchBytes s k (count + 1) = (do
      let pa ← Machine.translate s (fetchLinear s.lp k) .read
      let rest ← fetchBytes s (k + 1) count
      .ok (Memory.byte s.mem pa.toNat :: rest)) := by
  rw [fetchBytes, memRead]
  cases Machine.translate s (fetchLinear s.lp k) .read with
  | error f => rfl
  | ok pa =>
    simp only [ofNat_readLe_one]
    cases fetchBytes s (k + 1) count <;> rfl

theorem fetchBytes_succ_eq_ok_iff (s : State) (k count : Nat) (bytes : List Byte) :
    fetchBytes s k (count + 1) = .ok bytes ↔
      ∃ pa, Machine.translate s (fetchLinear s.lp k) .read = .ok pa
        ∧ ∃ rest, fetchBytes s (k + 1) count = .ok rest ∧ bytes = Memory.byte s.mem pa.toNat :: rest := by
  simp only [fetchBytes_succ, bind_eq_ok_iff (α := PhysAddr), bind_eq_ok_iff (α := List Byte), Except.ok.injEq, eq_comm (b := bytes)]

theorem fetchBytes_succ_eq_error_iff (s : State) (k count : Nat) (f : Fault) :
    fetchBytes s k (count + 1) = .error f ↔
      Machine.translate s (fetchLinear s.lp k) .read = .error f
      ∨ ∃ pa, Machine.translate s (fetchLinear s.lp k) .read = .ok pa ∧ fetchBytes s (k + 1) count = .error f := by
  simp only [fetchBytes_succ, bind_eq_error_iff (α := PhysAddr), bind_eq_error_iff (α := List Byte), reduceCtorEq, and_false,
    exists_false, or_false]

/-- The bytes fetched are as many as asked for, each the byte of memory where its linear address leads. -/
theorem fetchBytes_eq_ok_iff (s : State) (k count : Nat) (bytes : List Byte) :
    fetchBytes s k count = .ok bytes ↔
      bytes.length = count
      ∧ ∀ (i : Nat) (b : Byte), bytes[i]? = some b →
          ∃ pa, Machine.translate s (fetchLinear s.lp (k + i)) .read = .ok pa ∧ b = Memory.byte s.mem pa.toNat := by
  induction count generalizing k bytes with
  | zero => cases bytes <;> simp [fetchBytes]
  | succ count ih =>
    rw [fetchBytes_succ_eq_ok_iff]
    constructor
    · rintro ⟨pa, hpa, rest, hrest, rfl⟩
      obtain ⟨hlength, hbyte⟩ := (ih _ _).1 hrest
      refine ⟨by simp [hlength], fun i b hb => ?_⟩
      cases i with
      | zero => exact ⟨pa, hpa, by simpa [eq_comm] using hb⟩
      | succ i => simpa only [Nat.add_assoc, Nat.add_comm 1 i] using hbyte i b (by simpa using hb)
    · rintro ⟨hlength, hbyte⟩
      obtain ⟨b, rest, rfl⟩ := List.exists_cons_of_length_eq_add_one hlength
      obtain ⟨pa, hpa, rfl⟩ := hbyte 0 b rfl
      refine ⟨pa, hpa, rest, (ih _ _).2 ⟨by simpa using hlength, fun i b hb => ?_⟩, rfl⟩
      simpa only [Nat.add_assoc, Nat.add_comm 1 i] using hbyte (i + 1) b (by simpa using hb)

/-- The fetch raises the fault of the first byte whose translation faults. -/
theorem fetchBytes_eq_error_iff (s : State) (k count : Nat) (f : Fault) :
    fetchBytes s k count = .error f ↔
      ∃ i < count, (∀ j < i, ∃ pa, Machine.translate s (fetchLinear s.lp (k + j)) .read = .ok pa)
        ∧ Machine.translate s (fetchLinear s.lp (k + i)) .read = .error f := by
  induction count generalizing k with
  | zero => simp [fetchBytes]
  | succ count ih =>
    rw [fetchBytes_succ_eq_error_iff, ih]
    constructor
    · rintro (hfault | ⟨pa, hpa, i, hi, hbefore, hfault⟩)
      · exact ⟨0, Nat.succ_pos _, fun j hj => absurd hj (Nat.not_lt_zero j), hfault⟩
      · refine ⟨i + 1, by omega, fun j hj => ?_, by simpa only [Nat.add_assoc, Nat.add_comm 1 i] using hfault⟩
        cases j with
        | zero => exact ⟨pa, hpa⟩
        | succ j => simpa only [Nat.add_assoc, Nat.add_comm 1 j] using hbefore j (by omega)
    · rintro ⟨i, hi, hbefore, hfault⟩
      cases i with
      | zero => exact .inl hfault
      | succ i =>
        obtain ⟨pa, hpa⟩ := hbefore 0 (Nat.succ_pos _)
        refine .inr ⟨pa, hpa, i, by omega, fun j hj => ?_, ?_⟩
        · simpa only [Nat.add_assoc, Nat.add_comm 1 j] using hbefore (j + 1) (by omega)
        · simpa only [Nat.add_assoc, Nat.add_comm 1 i] using hfault

/-- With no event due, the step raises the fetch's fault (log 17). -/
theorem step_of_fetch_error {s : State} {f : Fault} (hdue : dueEvent s = none) (hfetch : fetch s = .error f) :
    step s = .fault f := by
  simp only [step, hdue, hfetch, takeFault]

/-- Settles O6: the fetch is `fetchBytes` from byte 0, whose `k`-th linear address is `LA(CS, RIP + k)`. -/
theorem fetchReadsBytesAtRip : Obligations.FetchReadsBytesAtRip := by
  intro s
  refine ⟨fun bytes => ?_, fun f => ?_, fun f => step_of_fetch_error⟩
  · simpa only [fetch, fetchLinear, Nat.zero_add] using fetchBytes_eq_ok_iff s 0 s.platform.encluBytes.length bytes
  · simpa only [fetch, fetchLinear, Nat.zero_add] using fetchBytes_eq_error_iff s 0 s.platform.encluBytes.length f

end Sys2Proof.Machine

/-! ## The addresses at XLEN bits -/

namespace Sys2Proof.Machine

/-! ### Sums modulo 2^XLEN: since 2^XLEN divides 2^64, reducing a 64-bit sum again loses nothing (D2) -/

/-- A number taken as a word and then at XLEN bits is reduced once. -/
theorem truncXlen_ofNat_toNat (mode64 : Bool) (n : Nat) :
    (truncXlen mode64 (BitVec.ofNat 64 n)).toNat = n % (if mode64 then 2 ^ 64 else 2 ^ 32) := by
  cases mode64 <;> simp [truncXlen_toNat]

/-- What a word at XLEN bits is, of any number that the word stands for. -/
theorem truncXlen_toNat_of_eq_ofNat {mode64 : Bool} {v : Word} {n : Nat} (h : v = BitVec.ofNat 64 n) :
    (truncXlen mode64 v).toNat = n % (if mode64 then 2 ^ 64 else 2 ^ 32) := by
  rw [h, truncXlen_ofNat_toNat]

/-- Adding to an address at XLEN bits is adding to the word it comes from. -/
theorem truncXlen_toNat_add_mod (mode64 : Bool) (v : Word) (k : Nat) :
    ((truncXlen mode64 v).toNat + k) % (if mode64 then 2 ^ 64 else 2 ^ 32)
      = (truncXlen mode64 (v + BitVec.ofNat 64 k)).toNat := by
  cases mode64 <;> simp [truncXlen_toNat]

/-- A sum of two words as a number at XLEN bits. -/
theorem truncXlen_add_toNat (mode64 : Bool) (v w : Word) :
    (truncXlen mode64 (v + w)).toNat = (v.toNat + w.toNat) % (if mode64 then 2 ^ 64 else 2 ^ 32) :=
  truncXlen_toNat_of_eq_ofNat (by simp [BitVec.ofNat_add])

theorem truncXlen_toNat_lt (mode64 : Bool) (v : Word) : (truncXlen mode64 v).toNat < (if mode64 then 2 ^ 64 else 2 ^ 32) := by
  cases mode64 <;> simp only [truncXlen_toNat] <;> exact Nat.mod_lt _ (by decide)

/-! ### The addresses and the temporaries -/

theorem segBase_toNat (mode64 : Bool) (seg : Segment) : (segBase mode64 seg).toNat = if mode64 then 0 else seg.base.toNat := by
  cases mode64 <;> rfl

theorem linear_toNat (mode64 : Bool) (seg : Segment) (off : Word) :
    (linear mode64 seg off).toNat
      = ((if mode64 then 0 else seg.base.toNat) + off.toNat) % (if mode64 then 2 ^ 64 else 2 ^ 32) := by
  rw [linear, truncXlen_add_toNat, segBase_toNat]

theorem frameBytes_eq_ofNat (s : State) (pa : PhysAddr) :
    frameBytes s pa = BitVec.ofNat 64 (4096 * (secsAt s pa).ssaframesize.toNat) := by
  simp [frameBytes, Config.pageSize, BitVec.ofNat_mul]

theorem tmpSsa_toNat (s : State) (pa : PhysAddr) :
    (tmpSsa s pa).toNat =
      ((tcsAt s pa).ossa.toNat + (secsAt s pa).baseaddr.toNat
        + 4096 * (secsAt s pa).ssaframesize.toNat * (tcsAt s pa).cssa.toNat) % (if s.lp.mode64 then 2 ^ 64 else 2 ^ 32) :=
  truncXlen_toNat_of_eq_ofNat (by simp [frameBytes_eq_ofNat, BitVec.ofNat_add, BitVec.ofNat_mul])

/-- `TMP_GPR` and the size taken off give the end of the frame back (R155, D10). -/
theorem tmpGpr_toNat_add (s : State) (pa : PhysAddr) :
    ((tmpGpr s pa).toNat + s.platform.gprsgxSize) % (if s.lp.mode64 then 2 ^ 64 else 2 ^ 32)
      = ((tmpSsa s pa).toNat + 4096 * (secsAt s pa).ssaframesize.toNat) % (if s.lp.mode64 then 2 ^ 64 else 2 ^ 32) := by
  rw [tmpGpr, truncXlen_toNat_add_mod, sub_add_cancel]
  exact truncXlen_toNat_of_eq_ofNat (by simp [frameBytes_eq_ofNat, BitVec.ofNat_add])

theorem gprEnd_toNat (s : State) (pa : PhysAddr) :
    (gprEnd s pa).toNat
      = ((tmpGpr s pa).toNat + (s.platform.gprsgxSize - 1)) % (if s.lp.mode64 then 2 ^ 64 else 2 ^ 32) :=
  truncXlen_toNat_of_eq_ofNat (by simp [BitVec.ofNat_add])

theorem tmpTarget_toNat (s : State) (pa : PhysAddr) :
    (tmpTarget s pa).toNat
      = ((tcsAt s pa).oentry.toNat + (secsAt s pa).baseaddr.toNat) % (if s.lp.mode64 then 2 ^ 64 else 2 ^ 32) :=
  truncXlen_add_toNat _ _ _

theorem tmpFsLimit_toNat (s : State) (pa : PhysAddr) :
    (tmpFsLimit s pa).toNat =
      ((tcsAt s pa).ofsbase.toNat + (secsAt s pa).baseaddr.toNat + (tcsAt s pa).fslimit.toNat)
        % (if s.lp.mode64 then 2 ^ 64 else 2 ^ 32) :=
  truncXlen_toNat_of_eq_ofNat (by simp [BitVec.ofNat_add])

theorem tmpGsLimit_toNat (s : State) (pa : PhysAddr) :
    (tmpGsLimit s pa).toNat =
      ((tcsAt s pa).ogsbase.toNat + (secsAt s pa).baseaddr.toNat + (tcsAt s pa).gslimit.toNat)
        % (if s.lp.mode64 then 2 ^ 64 else 2 ^ 32) :=
  truncXlen_toNat_of_eq_ofNat (by simp [BitVec.ofNat_add])

/-- Settles O27: each is `truncXlen` of a 64-bit sum, which stands for the exact sum modulo 2^64. -/
theorem addressesWrapAtXlen : Obligations.AddressesWrapAtXlen := by
  rintro s pa _ rfl
  exact ⟨linear_toNat _, rfl, tmpSsa_toNat s pa, truncXlen_toNat_lt _ _, tmpGpr_toNat_add s pa, gprEnd_toNat s pa,
    tmpTarget_toNat s pa, truncXlen_add_toNat _ _ _, truncXlen_add_toNat _ _ _,
    fun _ => ⟨tmpFsLimit_toNat s pa, tmpGsLimit_toNat s pa⟩⟩

end Sys2Proof.Machine

/-! ## Where a proposed segment base or the entry point faults -/

namespace Sys2Proof.Machine

open Sys2Proof.Safety

/-- A stage that raises one fault only raises it when it does not pass. -/
theorem eq_error_of_ne_ok {x : Except Fault Unit} {f : Fault} (hraises : ∀ g, x = .error g → g = f) (h : x ≠ .ok ()) :
    x = .error f := by
  cases hx : x with
  | ok u => exact absurd hx h
  | error g => rw [hraises g hx]

/-- The XSAVE area's pages are as item 13 of R265 demands when the loop over them passes. -/
theorem xsavePagesOk_iff (s : State) (pa : PhysAddr) :
    (∃ pages, checkXsavePages s pa 0 (ssaPages s pa) = .ok pages) ↔ XsavePagesOk s pa := by
  simp only [checkXsavePages_ok_iff, Nat.zero_add, XsavePagesOk]

/-- What the check phase raises: the fault of its first stage that fails, in the order of R116 (R230). -/
theorem checkPhase_eq_error_iff (s : State) (f : Fault) :
    checkPhase s = .error f ↔
      checkEnclu s.lp = .error f
      ∨ DispatchOk s.lp ∧ (checkSegments s.lp = .error f
      ∨ SegmentsOk s.lp ∧ (checkTcsPage s = .error f
      ∨ ∃ pa, TcsPageOk s pa ∧ (checkTcsFields s pa = .error f
      ∨ TcsFieldsOk s pa ∧ (checkXsavePages s pa 0 (ssaPages s pa) = .error f
      ∨ XsavePagesOk s pa ∧ (checkGprArea s pa = .error f
      ∨ ∃ g, GprAreaOk s pa g ∧ checkEntryPoint s pa = .error f))))) := by
  unfold checkPhase
  simp only [unit_bind_eq_error_iff, bind_eq_error_iff (α := PhysAddr), bind_eq_error_iff (α := List PhysAddr), checkEnclu_eq_ok_iff,
    checkSegments_eq_ok_iff, checkTcsPage_eq_ok_iff, checkTcsFields_eq_ok_iff, checkGprArea_eq_ok_iff, pure, Except.pure, reduceCtorEq,
    and_false, or_false, exists_and_right, ← xsavePagesOk_iff, ssaPages]

/-- Fields of the TCS or of the SECS that are not as R134 to R148 demand raise `#GP(0)`. -/
theorem checkTcsFields_of_not_tcsFieldsOk {s : State} {pa : PhysAddr} (h : ¬TcsFieldsOk s pa) :
    checkTcsFields s pa = .error gp0 :=
  eq_error_of_ne_ok (fun _ => checkTcsFields_error) fun hok => h ((checkTcsFields_eq_ok_iff s pa).1 hok)

/-- A target that is not as R159 demands raises `#GP(0)`. -/
theorem checkEntryPoint_of_not_targetOk {s : State} {pa : PhysAddr} (h : ¬TargetOk s pa) : checkEntryPoint s pa = .error gp0 :=
  eq_error_of_ne_ok (fun _ => checkEntryPoint_error) fun hok => h ((checkEntryPoint_eq_ok_iff s pa).1 hok).1

theorem tmpFsBase_of_mode64 {s : State} (hmode : s.lp.mode64 = true) (pa : PhysAddr) :
    tmpFsBase s pa = (tcsAt s pa).ofsbase + (secsAt s pa).baseaddr := by
  rw [tmpFsBase, hmode, truncXlen_true]

theorem tmpGsBase_of_mode64 {s : State} (hmode : s.lp.mode64 = true) (pa : PhysAddr) :
    tmpGsBase s pa = (tcsAt s pa).ogsbase + (secsAt s pa).baseaddr := by
  rw [tmpGsBase, hmode, truncXlen_true]

theorem tmpTarget_of_mode64 {s : State} (hmode : s.lp.mode64 = true) (pa : PhysAddr) :
    tmpTarget s pa = (tcsAt s pa).oentry + (secsAt s pa).baseaddr := by
  rw [tmpTarget, hmode, truncXlen_true]

/-- Settles O21: such a base is against item 8 of R265, one of the TCS's fields' conditions. -/
theorem nonCanonicalSegmentBaseFaults : Obligations.NonCanonicalSegmentBaseFaults := by
  intro s pa hleaf hdispatch hsegments hpage hmode hbad
  have hnot : ¬TcsFieldsOk s pa := by
    rintro ⟨-, -, hfsgs, -⟩
    obtain ⟨hfs, hgs⟩ := hfsgs.2 hmode
    rw [tmpFsBase_of_mode64 hmode] at hfs
    rw [tmpGsBase_of_mode64 hmode] at hgs
    exact hbad.elim (absurd hfs) (absurd hgs)
  exact execEncluEenter_of_error hleaf
    ((checkPhase_eq_error_iff s gp0).2 (.inr ⟨hdispatch, .inr ⟨hsegments, .inr ⟨pa, hpage,
      .inl (checkTcsFields_of_not_tcsFieldsOk hnot)⟩⟩⟩))

/-- Settles O24: such a target is against item 15 of R265, in the mode's own half of it. -/
theorem entryPointFaults : Obligations.EntryPointFaults := by
  intro s pa g hleaf hdispatch hsegments hpage hfields hxsave hgpr hbad
  have hnot : ¬TargetOk s pa := by
    rintro ⟨h64, h32⟩
    rcases hbad with ⟨hmode, hcanonical⟩ | ⟨hmode, hlimit⟩
    · exact hcanonical (tmpTarget_of_mode64 hmode pa ▸ h64 hmode)
    · have htarget := h32 hmode
      simp only [tmpTarget_toNat, hmode, Bool.false_eq_true, if_false] at htarget
      exact absurd htarget (Nat.not_le_of_lt hlimit)
  exact execEncluEenter_of_error hleaf
    ((checkPhase_eq_error_iff s gp0).2 (.inr ⟨hdispatch, .inr ⟨hsegments, .inr ⟨pa, hpage, .inr ⟨hfields, .inr ⟨hxsave,
      .inr ⟨g, hgpr, checkEntryPoint_of_not_targetOk hnot⟩⟩⟩⟩⟩⟩))

end Sys2Proof.Machine

/-! ## What an entry does to memory and to the linear context -/

namespace Sys2Proof.Machine

open Sys2Proof.Safety

/-- Settles O35: the entry's memory is `memAfter`, which changes no byte outside its four fields. -/
theorem entryStoresNowhereElse : Obligations.EntryStoresNowhereElse := by
  intro s pa g henter
  obtain ⟨pages, -, hexec⟩ := exec_of_enterable henter
  refine ⟨_, hexec, fun a hnot => ?_⟩
  rw [commit_mem]
  exact byte_memAfter_of_outside s _ hnot

/-- With nothing cached, a page is translated by the paging structures (R41, R72). -/
theorem translatePage_of_linearContext_nil {s : State} (h : s.lp.linearContext = []) (la : LinAddr) (acc : Access) :
    translatePage s la acc = walk s.platform la acc := by
  rw [translatePage, h, cachedFrame]

/-- Settles O40: `lpAfter` empties the linear context, and the entry keeps the platform. -/
theorem entryFlushesLinearContext : Obligations.EntryFlushesLinearContext := by
  intro s pa g henter
  obtain ⟨pages, -, hexec⟩ := exec_of_enterable henter
  exact ⟨_, hexec, rfl, fun la acc => translatePage_of_linearContext_nil rfl la acc⟩

/-! ### The four stores at linear addresses -/

/-- A field of a structure, within the page of the structure's start, is stored by a `MemWrite` at its linear address, whatever was
stored before: the translation reads no memory (R75, log 4). -/
theorem memWrite_field {s : State} {la : LinAddr} {pa : PhysAddr} {f : Config.Field} (m : Memory) (v : Word)
    (h : Machine.translate s la .readWrite = .ok pa) (hf : la.toNat % 4096 + f.offset < 4096) :
    memWrite { s with mem := m } (la + BitVec.ofNat 64 f.offset) f.bytes v.toNat
      = .ok { s with mem := Memory.writeField m pa f v } :=
  (memWrite_eq_ok_iff _ _ _ _ _).2 ⟨fieldAt pa f.offset, translate_add h hf, rfl⟩

/-- A register at XLEN bits, as a number (R9, D3). -/
theorem toNat_mod_xlen (mode64 : Bool) (v : Word) :
    v.toNat % (if mode64 then 2 ^ 64 else 2 ^ 32) = (truncXlen mode64 v).toNat := by
  cases mode64 <;> rw [truncXlen_toNat] <;> rfl

/-- Settles O37: the TCS starts a page and the GPR area ends one, so each of the four fields lies in the page of its structure's start,
and the stores of `memAfter` are the `MemWrite`s in their order. -/
theorem storesAreMemWrites : Obligations.StoresAreMemWrites := by
  intro s pa g henter hlayout hbase
  obtain ⟨pages, -, hexec⟩ := exec_of_enterable henter
  obtain ⟨⟨⟨⟨-, hstate⟩, hstate1⟩, ⟨⟨-, haep⟩, haep8⟩, -⟩, -, hsize, hrsp, hrbp, -⟩ := hlayout
  obtain ⟨htcs, ⟨htcsPa, -⟩, -⟩ := henter.page
  obtain ⟨⟨hossa, -⟩, -⟩ := henter.fields
  obtain ⟨⟨hgprPa, -⟩, -⟩ := henter.gpr
  have hgpr := tmpGpr_offset (by omega) hsize hbase hossa
  have write_state := fun m v => memWrite_field (f := s.platform.tcsLayout.state) m v htcsPa (by omega)
  have write_aep := fun m v => memWrite_field (f := s.platform.tcsLayout.aep) m v htcsPa (by omega)
  have write_rsp := fun m v => memWrite_field (f := s.platform.gprsgxLayout.uRspField) m v hgprPa (by
    simp only [Config.GprsgxLayout.uRspField]; omega)
  have write_rbp := fun m v => memWrite_field (f := s.platform.gprsgxLayout.uRbpField) m v hgprPa (by
    simp only [Config.GprsgxLayout.uRbpField]; omega)
  rw [haep8] at write_aep
  simp only [toNat_mod_xlen]
  refine ⟨_, _, _, _, _, write_state s.mem Config.tcsActive, write_aep _ _, write_rsp _ _, write_rbp _ _, hexec, ?_⟩
  rw [commit_mem]
  rfl

end Sys2Proof.Machine

/-! ## What an entry does not read of CS, SS, DS and ES in 64-bit mode -/

namespace Sys2Proof.Machine

/-- The segment with CS.L as given: the one bit of CS that the mode depends on (R120). -/
def Segment.withL (seg : Segment) (l : Bool) : Segment := { seg with ar := { seg.ar with l := l } }

theorem Segment.withL_of_l_eq {seg : Segment} {l : Bool} (h : seg.ar.l = l) : seg.withL l = seg := by
  subst h
  rfl

/-- The state with other CS, SS, DS and ES of the executing logical processor, but for CS.L. -/
def State.withSegments (s : State) (cs ss ds es : Segment) : State :=
  { s with lp := { s.lp with cs := cs.withL s.lp.cs.ar.l, ss := ss, ds := ds, es := es } }

@[simp] theorem withSegments_mode64 (s : State) (cs ss ds es : Segment) : (s.withSegments cs ss ds es).lp.mode64 = s.lp.mode64 := rfl

theorem checkEnclavePage_withSegments (s : State) (cs ss ds es : Segment) (secs : PhysAddr) (cause : Config.PfCause) (a : LinAddr) :
    checkEnclavePage (s.withSegments cs ss ds es) secs cause a = checkEnclavePage s secs cause a := rfl

theorem checkXsavePages_withSegments (s : State) (cs ss ds es : Segment) (pa : PhysAddr) (n count : Nat) :
    checkXsavePages (s.withSegments cs ss ds es) pa n count = checkXsavePages s pa n count := by
  induction count generalizing n with
  | zero => rfl
  | succ count ih =>
    simp only [checkXsavePages, ih, checkEnclavePage_withSegments]
    rfl

section
variable {s : State} (hmode : s.lp.mode64 = true) (cs ss ds es : Segment)
include hmode

/-- In 64-bit mode the bases of CS, DS, ES and SS are taken as zero (R71, D4). -/
theorem linear_of_mode64 (seg : Segment) (off : Word) : linear s.lp.mode64 seg off = off := by
  simp [linear, segBase, hmode]

theorem checkSegments_of_mode64 : checkSegments s.lp = .ok () :=
  (checkSegments_eq_ok_iff _).2 fun hnot => absurd (hmode.symm.trans hnot) Bool.false_ne_true.symm

theorem checkTcsPage_withSegments : checkTcsPage (s.withSegments cs ss ds es) = checkTcsPage s := by
  have htcs : tcsLinear (s.withSegments cs ss ds es).lp = tcsLinear s.lp := by
    rw [tcsLinear, tcsLinear, linear_of_mode64 hmode, linear_of_mode64 (s := s.withSegments cs ss ds es) hmode]
    rfl
  have haep : aepLinear (s.withSegments cs ss ds es).lp = aepLinear s.lp := by
    rw [aepLinear_of_mode64 hmode, aepLinear_of_mode64 (lp := (s.withSegments cs ss ds es).lp) hmode]
    rfl
  unfold checkTcsPage
  rw [htcs, haep]
  rfl

/-- DS.limit counts outside 64-bit mode only (R139 to R141). -/
theorem checkFsGs_withSegments (pa : PhysAddr) : checkFsGs (s.withSegments cs ss ds es) pa = checkFsGs s pa := by
  unfold checkFsGs
  rw [withSegments_mode64, hmode]
  rfl

theorem checkTcsFields_withSegments (pa : PhysAddr) : checkTcsFields (s.withSegments cs ss ds es) pa = checkTcsFields s pa := by
  unfold checkTcsFields
  rw [checkFsGs_withSegments hmode]
  rfl

/-- The GPR area is compared with DS.limit outside 64-bit mode only (R157). -/
theorem checkGprArea_withSegments (pa : PhysAddr) : checkGprArea (s.withSegments cs ss ds es) pa = checkGprArea s pa := by
  unfold checkGprArea
  rw [withSegments_mode64, hmode, checkEnclavePage_withSegments]
  rfl

/-- The target is compared with CS.limit outside 64-bit mode only (R159). -/
theorem checkEntryPoint_withSegments (pa : PhysAddr) : checkEntryPoint (s.withSegments cs ss ds es) pa = checkEntryPoint s pa := by
  unfold checkEntryPoint badTarget
  rw [withSegments_mode64, hmode]
  rfl

/-- In 64-bit mode the check phase reads of CS, SS, DS and ES no more than CS.L. -/
theorem checkPhase_withSegments : checkPhase (s.withSegments cs ss ds es) = checkPhase s := by
  unfold checkPhase
  rw [checkSegments_of_mode64 hmode, checkSegments_of_mode64 (s := s.withSegments cs ss ds es) hmode]
  simp only [checkTcsPage_withSegments hmode, checkTcsFields_withSegments hmode, checkXsavePages_withSegments,
    checkGprArea_withSegments hmode, checkEntryPoint_withSegments hmode]
  rfl

end

/-- Settles O52: the instruction faults as its check phase does, and that is the same for both states. -/
theorem segmentsNotCheckedIn64 : Obligations.SegmentsNotCheckedIn64 := by
  intro s cs ss ds es hmode hl f
  have hstate : { s with lp := { s.lp with cs := cs, ss := ss, ds := ds, es := es } } = s.withSegments cs ss ds es := by
    rw [State.withSegments, Segment.withL_of_l_eq hl]
  rw [hstate, exec_eq_fault_iff, exec_eq_fault_iff, checkPhase_withSegments hmode]
  rfl

end Sys2Proof.Machine

/-! ## The encoding -/

namespace Sys2Proof

/-! ### The decoder against the encoder -/

/-- Bytes decode to an instruction exactly when they are its encoding and the rest (R101, R107; D27). -/
theorem decode_eq_ok_iff (enclu bytes rest : List Byte) (i : Instr) :
    decode enclu bytes = .ok (i, rest) ↔ bytes = encode enclu i ++ rest := by
  cases i with
  | encluEenter =>
    have hsplit : bytes = enclu ++ rest ↔ bytes.take enclu.length = enclu ∧ bytes.drop enclu.length = rest := by
      constructor
      · rintro rfl
        exact ⟨List.take_left, List.drop_left⟩
      · rintro ⟨htake, hdrop⟩
        rw [← List.take_append_drop enclu.length bytes, hdrop, htake]
    rw [encode, hsplit, decode]
    split_ifs with htake hshort <;> simp [htake]

/-- Settles O2: one direction of `decode_eq_ok_iff`. -/
theorem decodeInvertsEncode : Obligations.DecodeInvertsEncode := fun enclu i rest _ =>
  (decode_eq_ok_iff enclu _ rest i).2 rfl

/-- Settles O3: the other direction. -/
theorem decodedBytesAreEncoded : Obligations.DecodedBytesAreEncoded := fun enclu bytes rest i =>
  (decode_eq_ok_iff enclu bytes rest i).1

/-- Settles O1: the three bytes are those that the platform has at reset (log 13). -/
theorem encluBytesDecode : Obligations.EncluBytesDecode := fun rest =>
  (decode_eq_ok_iff _ _ rest .encluEenter).2 rfl

/-! ### The words of the opcode table -/

/-- A word within the table's width is an instruction when its bytes are that instruction's encoding (R104). -/
theorem decodeTableWord_eq_some_iff {nbits : Nat} (hbits : nbits ≤ 24) (w : Nat) (i : Instr) :
    decodeTableWord nbits w = some i ↔ ∃ rest, tableBytes nbits w = encode Config.defaultEncluBytes i ++ rest := by
  simp only [← decode_eq_ok_iff, decodeTableWord, if_pos hbits]
  cases decode Config.defaultEncluBytes (tableBytes nbits w) with
  | error e => simp
  | ok p => simp [Prod.ext_iff]

/-- The three bytes of a word as numbers: the first is the most significant (R104). -/
theorem tableBytes_eq_iff {w : Nat} (hw : w < 2 ^ 24) (a b c : Byte) :
    tableBytes 24 w = [a, b, c] ↔ w = a.toNat * 2 ^ 16 + b.toNat * 2 ^ 8 + c.toNat := by
  have ha := a.isLt
  have hb := b.isLt
  have hc := c.isLt
  simp only [tableBytes, List.cons.injEq, and_true, ← BitVec.toNat_inj, BitVec.extractLsb'_toNat, BitVec.toNat_ofNat,
    Nat.shiftRight_eq_div_pow]
  omega

/-- The mask of the one row takes every bit, so one word matches (R101, R104). -/
theorem wellFormedWord_iff (v : BitVec 24) : wellFormedWord v = true ↔ v = Config.encluMatch := by
  have hmask : Config.encluMask = BitVec.allOnes 24 := by decide
  rw [wellFormedWord, hmask, BitVec.and_allOnes, beq_iff_eq]

theorem decodeTableWord_eq_enclu_iff {w : Nat} (hw : w < 2 ^ 24) :
    decodeTableWord 24 w = some .encluEenter ↔ w = 0x0F01D7 := by
  calc decodeTableWord 24 w = some .encluEenter
      ↔ tableBytes 24 w = [0x0F, 0x01, 0xD7] := by
        simp [decodeTableWord_eq_some_iff, encode, Config.defaultEncluBytes, tableBytes]
    _ ↔ w = 0x0F01D7 := tableBytes_eq_iff hw _ _ _

/-- Settles O4: `0F01D7H` is the number that the default bytes make and the match value of the row. -/
theorem tableWordIsEncluExactly : Obligations.TableWordIsEncluExactly := by
  intro w hw
  have hmatch : BitVec.ofNat 24 w = Config.encluMatch ↔ w = 0x0F01D7 := by
    rw [← BitVec.toNat_inj, BitVec.toNat_ofNat, Nat.mod_eq_of_lt hw]
    rfl
  rw [decodeTableWord_eq_enclu_iff hw, wellFormedWord_iff, hmatch]
  exact ⟨Iff.rfl, Iff.rfl⟩

end Sys2Proof

namespace Sys2Proof.Machine

/-! ### Refusals -/

/-- Settles O7: with no event and no fault of the fetch, the step refuses what the decoder rejects, with its reason. -/
theorem undecodableBytesRefused : Obligations.UndecodableBytesRefused := by
  intro s bytes reason hdue hfetch hdecode
  simp only [step, hdue, hfetch, hdecode]

/-- Settles O10: of the three things the instruction can do, a check phase's fault and an entry are no refusals. -/
theorem onlyOtherLeavesRefused : Obligations.OnlyOtherLeavesRefused := by
  intro s r
  rw [exec_encluEenter]
  rcases execEncluEenter_cases s with ⟨hleaf, hexec⟩ | ⟨hleaf, f, -, hexec⟩ | ⟨hleaf, e, -, hexec⟩
  · rw [hexec]
    exact ⟨fun h => ⟨hleaf, (Host.Outcome.refused.inj h).symm⟩, fun ⟨_, hr⟩ => by rw [hr]⟩
  · have heax : s.lp.eax = 2 := hleaf
    simp [hexec, heax]
  · have heax : s.lp.eax = 2 := hleaf
    simp [hexec, heax]

/-! ### Fetching the bytes that `placeBytes` placed (log 15) -/

/-- `t` is `s` with the byte `b` stored at `pa`, where the linear address `la` leads when it is read, and with no more changed than which
pages can be read. -/
structure BytePlaced (s : State) (la : LinAddr) (b : Byte) (pa : PhysAddr) (t : State) : Prop where
  readable : Machine.translate t la .read = .ok pa
  lp : t.lp = s.lp
  mem : t.mem = Memory.setByte s.mem pa.toNat b
  keeps : ∀ la' pa', Machine.translate s la' .read = .ok pa' → Machine.translate t la' .read = .ok pa'

theorem BytePlaced.offset {s t : State} {la : LinAddr} {b : Byte} {pa : PhysAddr} (h : BytePlaced s la b pa t) :
    pa.toNat % 4096 = la.toNat % 4096 := by
  obtain ⟨frame, -, rfl⟩ := translate_eq_ok h.readable
  rw [physAt_toNat]
  omega

/-- `placeBytes` places the first byte, whatever the state, and then the rest. -/
theorem placeBytes_cons (s : State) (k : Nat) (b : Byte) (rest : List Byte) :
    ∃ pa t, BytePlaced s (fetchLinear s.lp k) b pa t ∧ placeBytes s k (b :: rest) = placeBytes t (k + 1) rest := by
  obtain ⟨frame, hframe⟩ := translatePage_ensureReadable s (fetchLinear s.lp k)
  have hreadable : Machine.translate (ensureReadable s (fetchLinear s.lp k)) (fetchLinear s.lp k) .read
      = .ok (physAt frame (fetchLinear s.lp k)) := by
    rw [Machine.translate, hframe]
  refine ⟨_, { ensureReadable s (fetchLinear s.lp k) with
      mem := Memory.setByte s.mem (physAt frame (fetchLinear s.lp k)).toNat b },
    ⟨hreadable, ensureReadable_lp _ _, rfl, fun la' pa' h => ?_⟩, ?_⟩
  · obtain ⟨frame', hframe', rfl⟩ := translate_eq_ok h
    change Machine.translate (ensureReadable s (fetchLinear s.lp k)) la' .read = _
    rw [Machine.translate, translatePage_ensureReadable_keep _ hframe']
  · rw [placeBytes]
    simp only [hreadable, ensureReadable_mem]

theorem placeBytes_lp (s : State) (k : Nat) (bytes : List Byte) : (placeBytes s k bytes).lp = s.lp := by
  induction bytes generalizing s k with
  | nil => rfl
  | cons b rest ih =>
    obtain ⟨pa, t, hplaced, hplace⟩ := placeBytes_cons s k b rest
    rw [hplace, ih, hplaced.lp]

/-- Placing bytes leaves what could be read where it was. -/
theorem translate_placeBytes_keep {s : State} {la : LinAddr} {pa : PhysAddr} (k : Nat) (bytes : List Byte)
    (h : Machine.translate s la .read = .ok pa) : Machine.translate (placeBytes s k bytes) la .read = .ok pa := by
  induction bytes generalizing s k with
  | nil => exact h
  | cons b rest ih =>
    obtain ⟨pa', t, hplaced, hplace⟩ := placeBytes_cons s k b rest
    rw [hplace]
    exact ih _ (hplaced.keeps _ _ h)

/-- The offset of a byte of the instruction in its page: 4096 divides 2^XLEN, so no wrap changes it (R71). -/
theorem fetchLinear_toNat_mod (lp : LogicalProcessor) (k : Nat) :
    (fetchLinear lp k).toNat % 4096 = ((segBase lp.mode64 lp.cs + lp.rip).toNat + k) % 4096 := by
  simp only [fetchLinear, linear, truncXlen_toNat, ← BitVec.add_assoc, BitVec.toNat_add, BitVec.toNat_ofNat]
  cases lp.mode64 <;> simp only [if_true, Bool.false_eq_true, if_false] <;> omega

/-- A byte at an offset where none of the bytes placed goes stays, whatever frames their pages have. -/
theorem byte_placeBytes_of_offset_ne {s : State} {k : Nat} {bytes : List Byte} {a : Nat}
    (h : ∀ i < bytes.length, a % 4096 ≠ (fetchLinear s.lp (k + i)).toNat % 4096) :
    Memory.byte (placeBytes s k bytes).mem a = Memory.byte s.mem a := by
  induction bytes generalizing s k with
  | nil => rfl
  | cons b rest ih =>
    obtain ⟨pa, t, hplaced, hplace⟩ := placeBytes_cons s k b rest
    have hother : a ≠ pa.toNat := by
      rintro rfl
      exact h 0 (Nat.succ_pos _) hplaced.offset
    rw [hplace, ih, hplaced.mem, Memory.byte_setByte_ne _ _ hother]
    intro i hi
    rw [hplaced.lp, Nat.add_assoc, Nat.add_comm 1 i]
    exact h (i + 1) (Nat.succ_lt_succ hi)

/-- The bytes placed are what is fetched, if none is 0 (so each is stored, even in memory that is not in canonical form) and they fit in a
page (so that no two go to the same address, even where two pages share a frame). -/
theorem fetchBytes_placeBytes (s : State) (k : Nat) {bytes : List Byte} (hzero : ∀ b ∈ bytes, b ≠ 0)
    (hlength : bytes.length ≤ 4096) : fetchBytes (placeBytes s k bytes) k bytes.length = .ok bytes := by
  induction bytes generalizing s k with
  | nil => rfl
  | cons b rest ih =>
    rw [List.length_cons] at hlength
    obtain ⟨hb, hrest⟩ := List.forall_mem_cons.1 hzero
    obtain ⟨pa, t, hplaced, hplace⟩ := placeBytes_cons s k b rest
    have hread : Machine.translate (placeBytes t (k + 1) rest) (fetchLinear (placeBytes t (k + 1) rest).lp k) .read = .ok pa := by
      rw [placeBytes_lp, hplaced.lp]
      exact translate_placeBytes_keep _ _ hplaced.readable
    have hapart : ∀ i < rest.length, pa.toNat % 4096 ≠ (fetchLinear t.lp (k + 1 + i)).toNat % 4096 := by
      intro i hi
      rw [hplaced.offset, hplaced.lp, fetchLinear_toNat_mod, fetchLinear_toNat_mod]
      omega
    have hbyte : Memory.byte (placeBytes t (k + 1) rest).mem pa.toNat = b := by
      rw [byte_placeBytes_of_offset_ne hapart, hplaced.mem, Memory.byte_setByte_same_of_ne _ _ hb]
    rw [hplace, List.length_cons, fetchBytes_succ_eq_ok_iff]
    exact ⟨pa, hread, rest, ih t (k + 1) hrest (by omega), by rw [hbyte]⟩

/-! ### The step after `withFetchWord` -/

/-- Placing the word leaves the logical processor as `selectEenter` has it. -/
theorem withFetchWord_lp (s : State) (nbits w : Nat) : (s.withFetchWord nbits w).lp = (selectEenter s).lp :=
  placeBytes_lp _ _ _

theorem dueEvent_withFetchWord (s : State) (nbits w : Nat) : dueEvent (s.withFetchWord nbits w) = none := by
  simp [dueEvent, withFetchWord_lp]

/-- Where the table's word is placed, the table's bytes are fetched. -/
theorem fetch_withFetchWord (s : State) : fetch (s.withFetchWord 24 0x0F01D7) = .ok Config.defaultEncluBytes := by
  have hbytes : tableBytes 24 0x0F01D7 = Config.defaultEncluBytes := by decide
  rw [fetch, withFetchWord_encluBytes, State.withFetchWord, hbytes]
  exact fetchBytes_placeBytes (selectEenter s) 0 (by decide) (by decide)

/-- Settles O8: no event is due, and the bytes fetched are the encoding of ENCLU with nothing after it. -/
theorem fetchWordRunsEenter : Obligations.FetchWordRunsEenter := by
  intro s
  have hdecode : decode (s.withFetchWord 24 0x0F01D7).platform.encluBytes Config.defaultEncluBytes = .ok (.encluEenter, []) := by
    rw [withFetchWord_encluBytes]
    exact (decode_eq_ok_iff _ _ _ .encluEenter).2 (List.append_nil _).symm
  refine ⟨?_, step_of_decode (dueEvent_withFetchWord s _ _) (fetch_withFetchWord s) hdecode⟩
  rw [withFetchWord_lp, selectEenter_eax]
  rfl

end Sys2Proof.Machine

/-! ## One TCS serves one logical processor -/

namespace Sys2Proof.Machine

open Sys2Proof.Safety

/-! ### What a store leaves of a field -/

/-- A field that lies within the page of its structure's start has its bytes in that page. -/
theorem storedAt_page {b : Word} {f : Config.Field} {a : Nat} (hk : b.toNat % 4096 + f.offset + f.bytes ≤ 4096)
    (h : StoredAt b f a) : a / 4096 = b.toNat / 4096 := by
  obtain ⟨i, hi, rfl⟩ := storedAt_toNat hk h
  omega

/-- Storing a field leaves a field that shares no byte with it as it was. -/
theorem readField_writeField_of_disjoint (m : Memory) {b b' : PhysAddr} {f f' : Config.Field} (v : Word)
    (h : ∀ a, StoredAt b f a → ¬StoredAt b' f' a) :
    Memory.readField (Memory.writeField m b' f' v) b f = Memory.readField m b f :=
  Memory.readField_congr _ _ fun i hi =>
    Memory.byte_writeField_of_outside _ _ _ _ _ ((not_storedAt_iff _ _ _).1 (h _ ⟨i, hi, rfl⟩))

/-- An entry leaves a field without a byte in its four stores as it was. -/
theorem readField_memAfter_of_outside (s : State) (e : Entry) {b : PhysAddr} {f : Config.Field}
    (h : ∀ a, StoredAt b f a → ¬EntryStores s.platform e.tcsPa e.gprPa a) :
    Memory.readField (memAfter s e) b f = Memory.readField s.mem b f :=
  Memory.readField_congr _ _ fun i hi => byte_memAfter_of_outside s e (h _ ⟨i, hi, rfl⟩)

/-! ### The pages of an entry, and what it leaves in them -/

section
variable {s : State} {e : Entry} (henter : Enterable s e.tcsPa e.gprPa) (hlayout : LayoutOk s.platform)
  (hbase : BaseAligned s e.tcsPa)
include henter

/-- The TCS's page is of type PT_TCS (R132). -/
theorem tcsPa_pt : (epcmAt s e.tcsPa).pt = .ptTcs := by
  obtain ⟨-, -, -, -, -, -, -, -, hpt, -⟩ := henter.page
  exact hpt

/-- A page of another type than PT_REG is not the GPR area's (R156). -/
theorem page_ne_gprPa {p : PhysAddr} (hpt : (epcmAt s p).pt ≠ .ptReg) : p.toNat / 4096 ≠ e.gprPa.toNat / 4096 := by
  obtain ⟨⟨-, -, -, -, -, -, hreg, -⟩, -⟩ := henter.gpr
  exact page_ne_of_pt_ne (by rwa [hreg])

/-- A TCS that is held is not the one entered, which is INACTIVE (R160). -/
theorem tcsPa_ne_of_holdsTcs {l : LogicalProcessor} (hl : HoldsTcs s l) : l.cr.tcsPa ≠ e.tcsPa := fun heq =>
  hl.active (heq ▸ henter.inactive)

include hlayout hbase

theorem gprPa_toNat_mod : e.gprPa.toNat % 4096 = 4096 - s.platform.gprsgxSize := by
  obtain ⟨-, -, hsize, hrsp, -⟩ := hlayout
  obtain ⟨⟨hossa, -⟩, -⟩ := henter.fields
  exact gprPa_offset (by omega) hsize henter.gpr hbase hossa

/-- A field of a structure in a page that is neither the TCS's nor of type PT_REG is as before the entry. -/
theorem readField_memAfter_of_otherPage {p : PhysAddr} {f : Config.Field} (hp : Aligned4K p) (hf : FieldOk f)
    (hpt : (epcmAt s p).pt ≠ .ptReg) (htcs : p.toNat / 4096 ≠ e.tcsPa.toNat / 4096) :
    Memory.readField (memAfter s e) p f = Memory.readField s.mem p f := by
  refine readField_memAfter_of_outside s e fun a ha hstores => ?_
  have hpage := storedAt_page (by simp only [Aligned4K] at hp; omega) ha
  rcases entryStores_in_pages hlayout (tcsPa_aligned henter.page) (gprPa_toNat_mod henter hlayout hbase) hstores with ⟨h, -⟩ | h
  · exact htcs (hpage.symm.trans h)
  · exact page_ne_gprPa henter hpt (hpage.symm.trans h)

/-- TCS.STATE is ACTIVE after the entry: the later stores go to TCS.AEP and to another page (R184, D14). -/
theorem readField_memAfter_state (hwf : Memory.wf s.mem = true) :
    Memory.readField (memAfter s e) e.tcsPa s.platform.tcsLayout.state = Config.tcsActive := by
  have hgpr := gprPa_toNat_mod henter hlayout hbase
  have hne := page_ne_gprPa henter (p := e.tcsPa) (by simp [tcsPa_pt henter])
  have htcs : e.tcsPa.toNat % 4096 = 0 := tcsPa_aligned henter.page
  obtain ⟨⟨⟨⟨hbytes, hstate⟩, hbytes1⟩, ⟨⟨-, haep⟩, -⟩, hapart, -⟩, -, hsize, hrsp, hrbp, -⟩ := hlayout
  have hinTcs : ∀ a, StoredAt e.tcsPa s.platform.tcsLayout.state a → a / 4096 = e.tcsPa.toNat / 4096 :=
    fun a => storedAt_page (by omega)
  unfold memAfter
  rw [readField_writeField_of_disjoint, readField_writeField_of_disjoint, readField_writeField_of_disjoint]
  · apply BitVec.eq_of_toNat_eq
    rw [Memory.readField_writeField_same hwf _ hbytes]
    exact Nat.mod_eq_of_lt (Nat.one_lt_pow (by omega) (by decide))
  · intro a ha ha'
    obtain ⟨i, hi, rfl⟩ := storedAt_toNat (by omega) ha
    obtain ⟨j, hj, heq⟩ := storedAt_toNat (by omega) ha'
    omega
  · exact fun a ha ha' => hne ((hinTcs a ha).symm.trans
      (storedAt_page (by simp only [Config.GprsgxLayout.uRspField]; omega) ha'))
  · exact fun a ha ha' => hne ((hinTcs a ha).symm.trans
      (storedAt_page (by simp only [Config.GprsgxLayout.uRbpField]; omega) ha'))

end

/-! ### The invariant over the commit phase -/

@[simp] theorem epcmAt_commit (s : State) (e : Entry) (p : PhysAddr) : epcmAt (commit s e) p = epcmAt s p := rfl
@[simp] theorem tmpSecs_commit (s : State) (e : Entry) (p : PhysAddr) : tmpSecs (commit s e) p = tmpSecs s p := rfl

section
variable {s : State} {e : Entry} (henter : Enterable s e.tcsPa e.gprPa) (hinv : TcsExclusive s)
include henter hinv

theorem baseAligned_tcsPa : BaseAligned s e.tcsPa := by
  obtain ⟨-, -, hbase⟩ := hinv.built _ (tcsPa_pt henter)
  exact hbase

/-- An entry stores to no SECS, so the enclaves stay as they were built (R185). -/
theorem enclavesBuilt_commit : EnclavesBuilt (commit s e) := by
  intro p hpt
  obtain ⟨haligned, hsecs, hbase⟩ := hinv.built p hpt
  refine ⟨haligned, hsecs, ?_⟩
  obtain ⟨-, hfields, -⟩ := hinv.layout
  have hbaseaddr : (secsAt (commit s e) p).baseaddr = (secsAt s p).baseaddr := by
    simp only [secsAt, readSecs, commit_mem, tmpSecs_commit]
    exact readField_memAfter_of_otherPage henter hinv.layout (baseAligned_tcsPa henter hinv) haligned
      (hfields _ (by simp [secsFields])) (by simp [hsecs])
      (page_ne_of_pt_ne (s := s) (by simp [hsecs, tcsPa_pt henter]))
  rwa [BaseAligned, hbaseaddr]

/-- The entering logical processor holds its TCS (R173, R184). -/
theorem holdsTcs_lpAfter : HoldsTcs (commit s e) (lpAfter s e) where
  aligned := tcsPa_aligned henter.page
  page := tcsPa_pt (s := s) henter
  active := by
    have hactive := readField_memAfter_state henter hinv.layout (baseAligned_tcsPa henter hinv) hinv.wf
    simp only [lpAfter_cr, crAfter_tcsPa, tcsAt, readTcs, commit_mem, commit_platform, hactive]
    decide

/-- A logical processor that held its TCS holds it after another one's entry. -/
theorem holdsTcs_commit {l : LogicalProcessor} (hl : HoldsTcs s l) : HoldsTcs (commit s e) l where
  aligned := hl.aligned
  page := hl.page
  active := by
    have hpage : l.cr.tcsPa.toNat / 4096 ≠ e.tcsPa.toNat / 4096 := by
      intro heq
      have haligned : l.cr.tcsPa.toNat % 4096 = 0 := hl.aligned
      have haligned' : e.tcsPa.toNat % 4096 = 0 := tcsPa_aligned henter.page
      exact tcsPa_ne_of_holdsTcs henter hl (BitVec.eq_of_toNat_eq (by omega))
    obtain ⟨⟨⟨hstate, -⟩, -⟩, -⟩ := hinv.layout
    have hkept := readField_memAfter_of_otherPage henter hinv.layout (baseAligned_tcsPa henter hinv) hl.aligned
      hstate (by simp [hl.page]) hpage
    simp only [tcsAt, readTcs, commit_mem, commit_platform, hkept]
    exact hl.active

end

/-- Another logical processor's `CR_` registers after an entry are those of one before it (R253). -/
theorem exists_cr_eq_of_mem_othersAfter {s : State} {e : Entry} {l : LogicalProcessor} (h : l ∈ othersAfter s e) :
    ∃ o ∈ s.others, o.cr = l.cr := by
  have hmem : l.cr ∈ (othersAfter s e).map (·.cr) := List.mem_map_of_mem h
  rwa [map_othersAfter _ s e fun t => (demoteAnyThread_frame _ _ t).2, List.mem_map] at hmem

/-- Holding a TCS is a matter of the `CR_` registers of the logical processor. -/
theorem holdsTcs_of_cr_eq {s : State} {l o : LogicalProcessor} (h : HoldsTcs s o) (hcr : o.cr = l.cr) : HoldsTcs s l :=
  ⟨hcr ▸ h.aligned, hcr ▸ h.page, hcr ▸ h.active⟩

/-- Two logical processors' `CR_` registers are not of one TCS, both in enclave mode. -/
def TcsApart (a b : CrRegs) : Prop := a.enclaveMode = true → b.enclaveMode = true → a.tcsPa ≠ b.tcsPa

theorem TcsApart.symm {a b : CrRegs} (h : TcsApart a b) : TcsApart b a := fun hb ha => (h ha hb).symm

/-- The commit phase keeps the invariant: the entered TCS was INACTIVE, so held by none, and is ACTIVE after it. -/
theorem tcsExclusive_commit {s : State} {e : Entry} (henter : Enterable s e.tcsPa e.gprPa) (hinv : TcsExclusive s) :
    TcsExclusive (commit s e) where
  wf := by
    rw [commit_mem]
    exact memAfter_wf hinv.wf e
  layout := hinv.layout
  built := enclavesBuilt_commit henter hinv
  held := fun l hl hmode => by
    rcases List.mem_cons.1 hl with rfl | hother
    · exact holdsTcs_lpAfter henter hinv
    · obtain ⟨o, ho, hcr⟩ := exists_cr_eq_of_mem_othersAfter hother
      have hheld := hinv.held o (List.mem_cons_of_mem _ ho) (hcr ▸ hmode)
      exact holdsTcs_of_cr_eq (holdsTcs_commit henter hinv hheld) hcr
  distinct := by
    have hbefore : (s.others.map (·.cr)).Pairwise TcsApart :=
      List.pairwise_map.2 (List.pairwise_cons.1 hinv.distinct).2
    have hafter : (othersAfter s e).Pairwise fun a b => TcsApart a.cr b.cr := by
      rwa [← map_othersAfter _ s e fun t => (demoteAnyThread_frame _ _ t).2, List.pairwise_map] at hbefore
    refine List.pairwise_cons.2 ⟨fun l hl _ hmode => ?_, hafter⟩
    obtain ⟨o, ho, hcr⟩ := exists_cr_eq_of_mem_othersAfter hl
    have hheld := hinv.held o (List.mem_cons_of_mem _ ho) (hcr ▸ hmode)
    exact (hcr ▸ tcsPa_ne_of_holdsTcs henter hheld).symm

/-- The invariant is of memory, the EPCM, the platform and of the logical processors in any order. -/
theorem tcsExclusive_of_perm {s t : State} (h : TcsExclusive s) (hmem : t.mem = s.mem) (hepcm : t.epcm = s.epcm)
    (hplatform : t.platform = s.platform) (hperm : (processors t).Perm (processors s)) : TcsExclusive t := by
  have hentry : ∀ p, epcmAt t p = epcmAt s p := fun p => by rw [epcmAt, epcmAt, hepcm]
  have htcs : ∀ p, tcsAt t p = tcsAt s p := fun p => by rw [tcsAt, tcsAt, hmem, hplatform]
  have hsecs : ∀ p, secsAt t p = secsAt s p := fun p => by rw [secsAt, secsAt, tmpSecs, tmpSecs, hmem, hplatform, hentry]
  exact
    { wf := hmem ▸ h.wf
      layout := hplatform ▸ h.layout
      built := fun p hp => by
        simpa only [tmpSecs, BaseAligned, hentry, hsecs] using h.built p (hentry p ▸ hp)
      held := fun l hl hmode => by
        obtain ⟨haligned, hpage, hactive⟩ := h.held l (hperm.mem_iff.1 hl) hmode
        exact ⟨haligned, hentry _ ▸ hpage, htcs _ ▸ hactive⟩
      distinct := (hperm.pairwise_iff (R := fun a b : LogicalProcessor => TcsApart a.cr b.cr) TcsApart.symm).2 h.distinct }

/-- Settles O60: a step that answers is an entry's commit phase, which keeps the invariant, and `advance` permutes the logical
processors. -/
theorem stepKeepsTcsExclusive : Obligations.StepKeepsTcsExclusive := by
  intro s t hinv hstep
  obtain ⟨-, hleaf, e, hcheck, rfl⟩ := step_next hstep
  have hcommit : TcsExclusive (commit s e) := tcsExclusive_commit (enterable_of_checkPhase hleaf hcheck) hinv
  exact tcsExclusive_of_perm hcommit (advance_mem _) (advance_epcm _) (advance_platform _) (advance_perm _)

end Sys2Proof.Machine

/-! ## What each stage of the checks raises, and that the instruction raises it -/

namespace Sys2Proof.Machine

open Sys2Proof.Safety

/-! ### A stage that fails after the stages before it passed decides (R116, R230) -/

section
variable {s : State} {pa g : PhysAddr} {f : Fault} (hleaf : s.lp.eax = 2) (hdispatch : DispatchOk s.lp) (hsegments : SegmentsOk s.lp)
include hleaf hdispatch hsegments

theorem exec_of_checkTcsPage_error (h : checkTcsPage s = .error f) : exec .encluEenter s = .fault f :=
  execEncluEenter_of_error hleaf ((checkPhase_eq_error_iff s f).2 (.inr ⟨hdispatch, .inr ⟨hsegments, .inl h⟩⟩))

variable (hpage : TcsPageOk s pa)
include hpage

theorem exec_of_not_tcsFieldsOk (h : ¬TcsFieldsOk s pa) : exec .encluEenter s = .fault .generalProtection :=
  execEncluEenter_of_error hleaf ((checkPhase_eq_error_iff s gp0).2 (.inr ⟨hdispatch, .inr ⟨hsegments, .inr ⟨pa, hpage,
    .inl (checkTcsFields_of_not_tcsFieldsOk h)⟩⟩⟩))

variable (hfields : TcsFieldsOk s pa)
include hfields

theorem exec_of_checkXsavePages_error (h : checkXsavePages s pa 0 (ssaPages s pa) = .error f) : exec .encluEenter s = .fault f :=
  execEncluEenter_of_error hleaf ((checkPhase_eq_error_iff s f).2 (.inr ⟨hdispatch, .inr ⟨hsegments, .inr ⟨pa, hpage,
    .inr ⟨hfields, .inl h⟩⟩⟩⟩))

theorem exec_of_checkGprArea_error (hxsave : XsavePagesOk s pa) (h : checkGprArea s pa = .error f) :
    exec .encluEenter s = .fault f :=
  execEncluEenter_of_error hleaf ((checkPhase_eq_error_iff s f).2 (.inr ⟨hdispatch, .inr ⟨hsegments, .inr ⟨pa, hpage,
    .inr ⟨hfields, .inr ⟨hxsave, .inl h⟩⟩⟩⟩⟩))

end

/-- A TCS that is not INACTIVE raises `#GP(0)` after every other check (R160; C14, U5). -/
theorem exec_of_not_tcsInactive {s : State} {pa g : PhysAddr} (h : EnterableUpToState s pa g) (hstate : ¬TcsInactive s pa) :
    exec .encluEenter s = .fault .generalProtection := by
  have hentry : checkEntryPoint s pa = .error gp0 :=
    eq_error_of_ne_ok (fun _ => checkEntryPoint_error) fun hok => hstate ((checkEntryPoint_eq_ok_iff s pa).1 hok).2
  exact execEncluEenter_of_error h.leaf ((checkPhase_eq_error_iff s gp0).2 (.inr ⟨h.dispatch, .inr ⟨h.segments, .inr ⟨pa, h.page,
    .inr ⟨h.fields, .inr ⟨h.xsave, .inr ⟨g, h.gpr, hentry⟩⟩⟩⟩⟩⟩))

/-- Settles O25: STATE is the last check of the check phase. -/
theorem activeTcsFaults : Obligations.ActiveTcsFaults := fun _ _ _ => exec_of_not_tcsInactive

/-- Settles O54: the entry left ACTIVE in TCS.STATE, and the second EENTER reads it there. -/
theorem enteredTcsIsNotEnteredAgain : Obligations.EnteredTcsIsNotEnteredAgain := by
  intro s s' pa g g' henter hwf hlayout hbase
  obtain ⟨pages, -, hexec⟩ := exec_of_enterable henter
  refine ⟨_, hexec, fun hmem htcsLayout hupTo => exec_of_not_tcsInactive hupTo ?_⟩
  have hactive := readField_memAfter_state (e := { tcsPa := pa, xsavePages := pages, gprPa := g }) henter hlayout hbase hwf
  simp only [TcsInactive, tcsAt, readTcs, hmem, htcsLayout, commit_mem, commit_platform, hactive]
  decide

/-! ### The TCS page (R126 to R133) -/

/-- What the TCS page's checks raise: the fault of the first that fails. -/
theorem checkTcsPage_eq_error_iff (s : State) (f : Fault) :
    checkTcsPage s = .error f ↔
      ¬TcsAligned s ∧ f = gp0
      ∨ TcsAligned s ∧ (Machine.translate s (tcsLinear s.lp) .readWrite = .error f
      ∨ ∃ pa, Machine.translate s (tcsLinear s.lp) .readWrite = .ok pa
        ∧ (inEpc s.platform pa = false ∧ f = sgxPageFault .tcsNotInEpc (tcsLinear s.lp)
        ∨ inEpc s.platform pa = true ∧ (¬AepOk s ∧ f = gp0
        ∨ AepOk s ∧ (¬TcsFree s pa ∧ f = gp0
        ∨ TcsFree s pa ∧ checkTcsEpcm (epcmAt s pa) (tcsLinear s.lp) = .error f)))) := by
  unfold checkTcsPage
  simp only [unit_bind_eq_error_iff, bind_eq_error_iff (α := PhysAddr), raiseIf_eq_error_iff, raiseIf_eq_ok_iff,
    ← Bool.not_eq_false (b := _ && _), ← Bool.not_eq_false (b := tcsBusy _ _), aepOk_iff, tcsBusy_eq_false_iff, Bool.not_eq_true',
    Bool.not_eq_false', aligned4K_eq_false_iff, aligned4K_iff, pure, Except.pure, reduceCtorEq, and_false, or_false]

/-- Settles O13: alignment is the first check of the TCS page. -/
theorem misalignedTcsFaults : Obligations.MisalignedTcsFaults := fun s hleaf hdispatch hsegments hmisaligned =>
  exec_of_checkTcsPage_error hleaf hdispatch hsegments ((checkTcsPage_eq_error_iff s gp0).2 (.inl ⟨hmisaligned, rfl⟩))

/-- Settles O14: the translation and the EPC come right after the alignment. -/
theorem unresolvedTcsFaults : Obligations.UnresolvedTcsFaults := by
  intro s hleaf hdispatch hsegments haligned
  refine ⟨fun f htranslate => ?_, fun pa htranslate hepc => ?_⟩ <;>
    refine exec_of_checkTcsPage_error hleaf hdispatch hsegments ((checkTcsPage_eq_error_iff s _).2 (.inr ⟨haligned, ?_⟩))
  · exact .inl htranslate
  · exact .inr ⟨pa, htranslate, .inl ⟨hepc, rfl⟩⟩

/-- Once the TCS resolves within the EPC, the checks after that decide. -/
theorem checkTcsPage_error_of_resolves {s : State} {pa : PhysAddr} {f : Fault} (haligned : TcsAligned s) (hresolves : TcsResolves s pa)
    (h : ¬AepOk s ∧ f = gp0 ∨ AepOk s ∧ (¬TcsFree s pa ∧ f = gp0
      ∨ TcsFree s pa ∧ checkTcsEpcm (epcmAt s pa) (tcsLinear s.lp) = .error f)) : checkTcsPage s = .error f :=
  (checkTcsPage_eq_error_iff s f).2 (.inr ⟨haligned, .inr ⟨pa, hresolves.1, .inr ⟨hresolves.2, h⟩⟩⟩)

/-- Settles O15: the AEP, then the TCS's holders, are checked once the TCS resolves. -/
theorem aepAndBusyTcsFault : Obligations.AepAndBusyTcsFault := by
  intro s pa hleaf hdispatch hsegments haligned hresolves
  refine ⟨fun hmode hcanonical => ?_, fun haep ⟨l, hl, hframe, hexclusive, hanother⟩ => ?_⟩ <;>
    refine exec_of_checkTcsPage_error hleaf hdispatch hsegments (checkTcsPage_error_of_resolves haligned hresolves ?_)
  · exact .inl ⟨fun haep => hcanonical (haep hmode), rfl⟩
  · exact .inr ⟨haep, .inl ⟨fun hfree => hfree l hl hframe hexclusive hanother, rfl⟩⟩

/-- Settles O16: the four are the tests of `checkTcsEpcm` in its order. -/
theorem tcsEpcmFaults : Obligations.TcsEpcmFaults := by
  intro s pa hleaf hdispatch hsegments haligned hresolves haep hfree
  have hraise : ∀ {f}, checkTcsEpcm (epcmAt s pa) (tcsLinear s.lp) = .error f → exec .encluEenter s = .fault f := fun h =>
    exec_of_checkTcsPage_error hleaf hdispatch hsegments
      (checkTcsPage_error_of_resolves haligned hresolves (.inr ⟨haep, .inr ⟨hfree, h⟩⟩))
  simp only [checkTcsEpcm_eq_error_iff] at hraise
  exact ⟨fun hvalid => hraise (.inl ⟨hvalid, rfl⟩),
    fun hvalid hblocked => hraise (.inr (.inl ⟨hvalid, hblocked, rfl⟩)),
    fun hvalid hblocked hother => hraise (.inr (.inr (.inl ⟨hvalid, hblocked, hother, rfl⟩))),
    fun hvalid hblocked haddress hpt hunsettled =>
      hraise (.inr (.inr (.inr ⟨hvalid, hblocked, haddress, hpt, hunsettled, rfl⟩)))⟩

/-! ### The fields of the TCS and of the SECS (R134 to R148) -/

/-- Settles O17: each is against item 7, 9 or 12 of R265. -/
theorem tcsFieldFaults : Obligations.TcsFieldFaults := by
  intro s pa hleaf hdispatch hsegments hpage hbad
  refine exec_of_not_tcsFieldsOk hleaf hdispatch hsegments hpage ?_
  rintro ⟨⟨hossa, hofs, hogs⟩, -, -, hflags, -, -, hframe⟩
  rcases hbad with h | h | h | h | h
  · exact h hossa
  · exact h hofs
  · exact h hogs
  · exact h ((flagsReserved_eq_zero_iff _).2 hflags)
  · exact absurd hframe (Nat.not_lt_of_le h)

/-- Settles O18: each is against item 10 of R265 or the second half of item 5. -/
theorem enclaveStateFaults : Obligations.EnclaveStateFaults := by
  intro s pa hleaf hdispatch hsegments hpage hbad
  refine exec_of_not_tcsFieldsOk hleaf hdispatch hsegments hpage ?_
  rintro ⟨-, hsecs, -, -, ⟨hinit, hmode⟩, -⟩
  rcases hbad with h | h | ⟨u, hu, husecs, hanother⟩
  · exact Bool.false_ne_true (h.symm.trans hinit)
  · exact h hmode
  · exact hsecs u hu husecs hanother

/-- Settles O19: each is against item 11 of R265. -/
theorem xfrmFaults : Obligations.XfrmFaults := by
  intro s pa hleaf hdispatch hsegments hpage hbad
  refine exec_of_not_tcsFieldsOk hleaf hdispatch hsegments hpage ?_
  rintro ⟨-, -, -, -, -, ⟨hosfxsr, hlegacy, hsubset⟩, -⟩
  rcases hbad with h | ⟨hosxsave, h⟩ | ⟨hosxsave, h⟩
  · exact Bool.false_ne_true (h.symm.trans hosfxsr)
  · exact h (hlegacy hosxsave)
  · exact h ((and_eq_left_iff _ _).2 (hsubset hosxsave))

/-- A segment that lies within DS has every byte, counted modulo 2^32, within it (R139, R140, D7). -/
theorem byte_le_of_insideDs {base limit : LinAddr} {dsLimit size : BitVec 32} {off : Nat} (hbase : base.toNat < 2 ^ 32)
    (hlimit : limit.toNat = (base.toNat + size.toNat) % 2 ^ 32) (h : InsideDs base limit dsLimit) (hoff : off ≤ size.toNat) :
    (base.toNat + off) % 2 ^ 32 ≤ dsLimit.toNat := by
  obtain ⟨hwraps, hinside⟩ := h
  have hsize := size.isLt
  by_cases hlt : limit.toNat < base.toNat
  · have := hwraps hlt
    omega
  · have := hinside (Nat.le_of_not_lt hlt)
    omega

/-- Settles O20: FS and GS within DS are item 8 of R265. -/
theorem segmentOutsideDsFaults : Obligations.SegmentOutsideDsFaults := by
  intro s pa hleaf hdispatch hsegments hpage hmode hbad
  refine exec_of_not_tcsFieldsOk hleaf hdispatch hsegments hpage ?_
  rintro ⟨-, -, ⟨hinside, -⟩, -⟩
  obtain ⟨hfs, hgs⟩ := hinside hmode
  have hfsBase : (tmpFsBase s pa).toNat = _ := truncXlen_add_toNat _ _ _
  have hgsBase : (tmpGsBase s pa).toNat = _ := truncXlen_add_toNat _ _ _
  have hfsLimit := tmpFsLimit_toNat s pa
  have hgsLimit := tmpGsLimit_toNat s pa
  simp only [hmode, Bool.false_eq_true, if_false] at hfsBase hgsBase hfsLimit hgsLimit
  rcases hbad with ⟨off, hoff, hbeyond⟩ | ⟨off, hoff, hbeyond⟩
  · exact absurd (byte_le_of_insideDs (by omega) (by omega) hfs hoff) (Nat.not_le_of_lt hbeyond)
  · exact absurd (byte_le_of_insideDs (by omega) (by omega) hgs hoff) (Nat.not_le_of_lt hbeyond)

/-! ### The pages of the SSA frame (R151 to R157) -/

theorem not_enclavePageOk_of_checkEnclavePage_error {s : State} {secs : PhysAddr} {cause : Config.PfCause} {a : LinAddr} {f : Fault}
    (h : checkEnclavePage s secs cause a = .error f) (p : PhysAddr) : ¬EnclavePageOk s secs a p := fun hp => by
  rw [(checkEnclavePage_eq_ok_iff s secs cause a p).2 hp] at h
  cases h

/-- A fault of an enclave page's translation is raised unchanged (R152, R156, R224). -/
theorem checkEnclavePage_of_translate_error {s : State} {a : LinAddr} {f : Fault} (secs : PhysAddr) (cause : Config.PfCause)
    (h : Machine.translate s a .readWrite = .error f) : checkEnclavePage s secs cause a = .error f :=
  (bind_eq_error_iff _ _ _).2 (.inl h)

/-- A page that translates and is not as item 13 of R265 demands raises `#PF` at the address (R153, R156). -/
theorem checkEnclavePage_of_not_enclavePageOk {s : State} {secs : PhysAddr} {a : LinAddr} {p : PhysAddr} (cause : Config.PfCause)
    (htranslate : Machine.translate s a .readWrite = .ok p) (h : ¬EnclavePageOk s secs a p) :
    checkEnclavePage s secs cause a = .error (sgxPageFault cause a) := by
  cases hcheck : checkEnclavePage s secs cause a with
  | ok q =>
    have hq := (checkEnclavePage_eq_ok_iff s secs cause a q).1 hcheck
    obtain rfl : q = p := Except.ok.inj (hq.1.symm.trans htranslate)
    exact absurd hq h
  | error f =>
    rcases checkEnclavePage_error hcheck with hf | ⟨-, rfl⟩
    · exact absurd (htranslate.symm.trans hf) (by simp)
    · rfl

/-- The loop raises the fault of its first page that fails, whichever that is (R151). -/
theorem checkXsavePages_of_first_error {s : State} {pa : PhysAddr} {n : Nat} {f : Fault} (hn : n < ssaPages s pa)
    (hbefore : ∀ m < n, ∃ p, EnclavePageOk s (tmpSecs s pa) (tmpSsaPage s pa m) p)
    (h : checkEnclavePage s (tmpSecs s pa) .xsavePage (tmpSsaPage s pa n) = .error f) :
    checkXsavePages s pa 0 (ssaPages s pa) = .error f := by
  have hfails : ¬∃ p, EnclavePageOk s (tmpSecs s pa) (tmpSsaPage s pa n) p :=
    not_exists.2 (not_enclavePageOk_of_checkEnclavePage_error h)
  cases hloop : checkXsavePages s pa 0 (ssaPages s pa) with
  | ok pages => exact absurd ((xsavePagesOk_iff s pa).1 ⟨pages, hloop⟩ n hn) hfails
  | error f' =>
    obtain ⟨i, -, hi, hfault⟩ := checkXsavePages_error hloop
    simp only [Nat.zero_add] at hi hfault
    rcases Nat.lt_trichotomy i n with hlt | rfl | hgt
    · obtain ⟨p, hp⟩ := hbefore i hlt
      exact absurd hp (not_enclavePageOk_of_checkEnclavePage_error hfault p)
    · rw [Except.error.inj (hfault.symm.trans h)]
    · exact absurd (hi n hgt) hfails

/-- Settles O22: the loop raises what the checks of its first failing page raise. -/
theorem ssaPageFaults : Obligations.SsaPageFaults := by
  intro s pa n hleaf hdispatch hsegments hpage hfields hn hbefore
  have hraise : ∀ {f}, checkEnclavePage s (tmpSecs s pa) .xsavePage (tmpSsaPage s pa n) = .error f →
      exec .encluEenter s = .fault f := fun h =>
    exec_of_checkXsavePages_error hleaf hdispatch hsegments hpage hfields (checkXsavePages_of_first_error hn hbefore h)
  exact ⟨fun f htranslate => hraise (checkEnclavePage_of_translate_error _ _ htranslate),
    fun p htranslate hnot => hraise (checkEnclavePage_of_not_enclavePageOk _ htranslate hnot)⟩

/-- A GPR area that ends beyond the DS limit raises `#GP(0)` outside 64-bit mode (R157). -/
theorem checkGprArea_of_beyond_ds {s : State} {pa p : PhysAddr} (hp : EnclavePageOk s (tmpSecs s pa) (tmpGpr s pa) p)
    (hmode : s.lp.mode64 = false) (hlimit : s.lp.ds.limit.toNat < (gprEnd s pa).toNat) : checkGprArea s pa = .error gp0 := by
  cases hcheck : checkGprArea s pa with
  | ok g => exact absurd (((checkGprArea_eq_ok_iff s pa g).1 hcheck).2 hmode) (Nat.not_le_of_lt hlimit)
  | error f =>
    rcases checkGprArea_error hcheck with h | rfl
    · exact absurd hp (not_enclavePageOk_of_checkEnclavePage_error h p)
    · rfl

/-- Settles O23: the area's page is checked before its end is compared with the DS limit. -/
theorem gprAreaFaults : Obligations.GprAreaFaults := by
  intro s pa hleaf hdispatch hsegments hpage hfields hxsave
  have hraise : ∀ {f}, checkGprArea s pa = .error f → exec .encluEenter s = .fault f := fun h =>
    exec_of_checkGprArea_error hleaf hdispatch hsegments hpage hfields hxsave h
  have hpageRaises : ∀ {f}, checkEnclavePage s (tmpSecs s pa) .gprArea (tmpGpr s pa) = .error f →
      exec .encluEenter s = .fault f := fun h => hraise ((bind_eq_error_iff _ _ _).2 (.inl h))
  refine ⟨fun f htranslate => ?_, fun p htranslate hnot => ?_, fun p hp hmode hlimit => ?_⟩
  · exact hpageRaises (checkEnclavePage_of_translate_error _ _ htranslate)
  · exact hpageRaises (checkEnclavePage_of_not_enclavePageOk _ htranslate hnot)
  · exact hraise (checkGprArea_of_beyond_ds hp hmode (by
      simpa only [gprEnd_toNat, hmode, Bool.false_eq_true, if_false] using hlimit))

/-! ### Which pages the loop visits (R151) -/

/-- An aligned address is the base of its page. -/
theorem pageBase_of_aligned {a : Word} (h : Aligned4K a) : pageBase a = a := by
  apply BitVec.eq_of_toNat_eq
  rw [pageBase_toNat]
  exact Nat.div_mul_cancel (Nat.dvd_of_mod_eq_zero h)

/-- The n-th address of the loop, before it is aligned down (R151). -/
theorem truncXlen_tmpSsa_add_toNat (s : State) (pa : PhysAddr) (k : Nat) :
    (truncXlen s.lp.mode64 (tmpSsa s pa + BitVec.ofNat 64 k)).toNat
      = ((tmpSsa s pa).toNat + k) % (if s.lp.mode64 then 2 ^ 64 else 2 ^ 32) :=
  truncXlen_toNat_of_eq_ofNat (by simp [BitVec.ofNat_add])

/-- Without the inclusive loop, the pages are those that hold a byte of the area (R151, D8). -/
theorem lt_xsavePageCount_exclusive_iff (xsize : Word) (n : Nat) : n < xsavePageCount false xsize ↔ 4096 * n < xsize.toNat := by
  simp only [xsavePageCount, Config.pageSize, Bool.false_eq_true, if_false]
  omega

/-- With the inclusive loop, also the one that holds the byte after the area (R151, D8). -/
theorem lt_xsavePageCount_inclusive_iff (xsize : Word) (n : Nat) : n < xsavePageCount true xsize ↔ 4096 * n ≤ xsize.toNat := by
  simp only [xsavePageCount, Config.pageSize, if_true]
  omega

/-- Settles O28: `TMP_SSA` is aligned, so that aligning a page's address down changes nothing; the counts are those of D8. -/
theorem loopVisitsXsavePages : Obligations.LoopVisitsXsavePages := by
  intro s pa hbase hossa
  refine ⟨fun n => ?_, fun hloop n => ?_, fun hloop n => ?_⟩
  · have hsum := truncXlen_tmpSsa_add_toNat s pa (4096 * n)
    have haligned : Aligned4K (truncXlen s.lp.mode64 (tmpSsa s pa + BitVec.ofNat 64 (4096 * n))) := by
      have hssa : (tmpSsa s pa).toNat % 4096 = 0 := tmpSsa_aligned hbase hossa
      simp only [Aligned4K, hsum]
      cases s.lp.mode64 <;> simp <;> omega
    rw [tmpSsaPage, Config.pageSize, pageBase_of_aligned haligned, hsum]
  · rw [ssaPages, hloop, lt_xsavePageCount_exclusive_iff]
  · rw [ssaPages, hloop, lt_xsavePageCount_inclusive_iff]

/-! ### What the checks do not read -/

/-- Settles O53: the check phase reads RCX in 64-bit mode only. -/
theorem aepNotTestedOutside64 : Obligations.AepNotTestedOutside64 := by
  intro s rcx hmode f
  change _ ↔ exec .encluEenter (s.withRegs { s.lp.gpr with rcx := rcx } s.lp.rip) = .fault f
  have hcheck : checkPhase (s.withRegs { s.lp.gpr with rcx := rcx } s.lp.rip) = checkPhase s :=
    checkPhase_withRegs rfl fun h64 => absurd (hmode.symm.trans h64) Bool.false_ne_true
  rw [exec_eq_fault_iff, exec_eq_fault_iff, hcheck]
  rfl

end Sys2Proof.Machine

/-! ## An opt-in and an opt-out entry (R193) -/

namespace Sys2Proof.Machine

open Sys2Proof.Safety

/-- Where the conditions of R265 hold, the instruction commits an entry with that TCS and that GPR area. -/
theorem exists_commit_of_enterable {s : State} {pa g : PhysAddr} (h : Enterable s pa g) :
    ∃ e : Entry, e.tcsPa = pa ∧ e.gprPa = g ∧ exec .encluEenter s = .next (commit s e) := by
  obtain ⟨pages, -, hexec⟩ := exec_of_enterable h
  exact ⟨_, rfl, rfl, hexec⟩

/-- The TF bit survives an opt-in entry only (R195 (c), R200). -/
theorem getLsbD_rflagsAfterEntry_tfBit (rflags : Word) (optIn : Bool) :
    (rflagsAfterEntry rflags optIn).getLsbD tfBit = (optIn && rflags.getLsbD tfBit) := by
  cases optIn with
  | true => rfl
  | false =>
    rw [rflagsAfterEntry, if_neg Bool.false_ne_true, getLsbD_withBit, if_pos rfl]
    rfl

@[simp] theorem lpAfter_tf (s : State) (e : Entry) : (lpAfter s e).tf = (optIn s e && s.lp.tf) :=
  getLsbD_rflagsAfterEntry_tfBit _ _

/-- Every entry suppresses the code breakpoints outside ELRANGE (R194). -/
@[simp] theorem dbgAfter_suppressCodeBpOutsideElrange (s : State) (e : Entry) :
    (dbgAfter s e).suppressCodeBpOutsideElrange = true := by
  unfold dbgAfter
  split <;> rfl

/-- The boundary that an entry reaches (R199). -/
@[simp] theorem pendAfter_boundary (s : State) (e : Entry) : (pendAfter s e).boundary = true := by
  unfold pendAfter
  split <;> rfl

section
variable {s : State} {e : Entry}

theorem dbgAfter_of_optIn (h : optIn s e = true) :
    dbgAfter s e = { s.lp.dbg with suppressCodeBpOutsideElrange := true } := if_pos h

theorem dbgAfter_of_optOut (h : optIn s e = false) :
    dbgAfter s e = { suppressCodeBpOutsideElrange := true, suppressCodeBpInElrange := true
                     suppressDataBpInElrange := true, mtfSuppressed := true } := by
  rw [dbgAfter, h, if_neg Bool.false_ne_true]

theorem pmuAfter_of_optIn (h : optIn s e = true) : pmuAfter s e = s.lp.pmu := if_pos h

theorem pmuAfter_of_optOut (h : optIn s e = false) :
    pmuAfter s e = { s.lp.pmu with suppressed := true, pebsSuppressed := true } := by
  rw [pmuAfter, h, if_neg Bool.false_ne_true]

theorem pendAfter_of_optIn (h : optIn s e = true) :
    pendAfter s e =
      { debugExceptions :=
          if s.lp.tf then addDebugEvent s.lp.pend.debugExceptions .singleStep else s.lp.pend.debugExceptions
        mtfVmExit := s.lp.pend.mtfVmExit || s.lp.mtfControl
        boundary := true } := if_pos h

theorem pendAfter_of_optOut (h : optIn s e = false) :
    pendAfter s e = { debugExceptions := [], mtfVmExit := false, boundary := true } := by
  rw [pendAfter, h, if_neg Bool.false_ne_true]

end

/-- What an entry makes of another logical processor: on an opt-out entry a sibling may be demoted (R205), an opt-in entry leaves it. -/
def otherAfter (s : State) (e : Entry) (o : LogicalProcessor) : LogicalProcessor :=
  if optIn s e then o else demoteAnyThread s.platform s.lp.id o

/-- The other logical processors after an entry are those before it, each as `otherAfter` leaves it. -/
theorem othersAfter_eq_map (s : State) (e : Entry) : othersAfter s e = s.others.map (otherAfter s e) := by
  unfold othersAfter otherAfter
  cases optIn s e with
  | true => exact (List.map_id' _).symm
  | false => rfl

end Sys2Proof.Machine

/-! ## What EENTER arranges for enclave mode (R241) -/

namespace Sys2Proof.Machine

open Sys2Proof.Safety

/-- A segment register that an entry writes is rebuilt, whatever DS and the TCS give to it (R182, R183). -/
theorem rebuilt_swappedSegment (ds : Segment) (base : LinAddr) (limit : BitVec 32) : Rebuilt (swappedSegment ds base limit) where
  selector := rfl
  type := by
    rw [swappedSegment_ar_type]
    cases ds.ar.w <;> decide
  flags := ⟨rfl, rfl, rfl, rfl⟩
  usable := rfl

/-- The XCR0 that an entry loads is a subset of the one before it (R147, R177). -/
theorem xcr0After_and_xcr0 {s : State} {e : Entry} (hxfrm : XfrmOk s e.tcsPa) (hosxsave : s.lp.osxsave = true) :
    xcr0After s e &&& s.lp.xcr0 = xcr0After s e := by
  obtain ⟨-, -, hsubset⟩ := hxfrm
  rw [xcr0After, if_pos hosxsave]
  exact (and_eq_left_iff _ _).2 (hsubset hosxsave)

theorem crAfter_saveXcr0_of_osxsave {s : State} (e : Entry) (h : s.lp.osxsave = true) : (crAfter s e).saveXcr0 = s.lp.xcr0 := if_pos h

/-- The entering logical processor is set up for enclave mode. -/
theorem enclaveModeSetUp_lpAfter {s : State} {e : Entry} (hxfrm : XfrmOk s e.tcsPa) : EnclaveModeSetUp (lpAfter s e) where
  flushed := rfl
  fs := rebuilt_swappedSegment _ _ _
  gs := rebuilt_swappedSegment _ _ _
  codeBpOutside := dbgAfter_suppressCodeBpOutsideElrange s e
  xcr0 := fun hosxsave => by
    rw [lpAfter_cr, lpAfter_xcr0, crAfter_saveXcr0_of_osxsave e hosxsave]
    exact xcr0After_and_xcr0 hxfrm hosxsave
  optOut := fun hout => by
    rw [lpAfter_cr, crAfter_dbgOptIn] at hout
    rw [lpAfter_tf, lpAfter_dbg, lpAfter_pmu, dbgAfter_of_optOut hout, pmuAfter_of_optOut hout, hout]
    exact ⟨rfl, rfl, rfl, rfl, rfl, rfl⟩

/-- A demotion touches nothing of what an entry arranged (R205, R253). -/
theorem enclaveModeSetUp_otherAfter {s : State} {e : Entry} {o : LogicalProcessor} (h : EnclaveModeSetUp o) :
    EnclaveModeSetUp (otherAfter s e o) := by
  unfold otherAfter demoteAnyThread
  split
  · exact h
  · split
    · exact ⟨h.flushed, h.fs, h.gs, h.codeBpOutside, h.xcr0, h.optOut⟩
    · exact h

@[simp] theorem otherAfter_cr (s : State) (e : Entry) (o : LogicalProcessor) : (otherAfter s e o).cr = o.cr := by
  unfold otherAfter
  split
  · rfl
  · exact (demoteAnyThread_frame _ _ _).2

/-- The commit phase keeps the invariant: it sets the executing logical processor up, and the others stay as they were set up. -/
theorem enclaveModeInv_commit {s : State} {e : Entry} (hxfrm : XfrmOk s e.tcsPa) (hinv : EnclaveModeInv s) :
    EnclaveModeInv (commit s e) := by
  intro l hl hmode
  rcases List.mem_cons.1 hl with rfl | hother
  · exact enclaveModeSetUp_lpAfter hxfrm
  · rw [commit_others, othersAfter_eq_map] at hother
    obtain ⟨o, ho, rfl⟩ := List.mem_map.1 hother
    rw [otherAfter_cr] at hmode
    exact enclaveModeSetUp_otherAfter (hinv o (List.mem_cons_of_mem _ ho) hmode)

/-- Settles O59: a step that answers is an entry's commit phase, which keeps the invariant, and `advance` only changes which logical
processor executes. -/
theorem stepKeepsEnclaveModeSetUp : Obligations.StepKeepsEnclaveModeSetUp := by
  intro s t hinv hstep
  obtain ⟨-, hleaf, e, hcheck, rfl⟩ := step_next hstep
  obtain ⟨-, -, -, -, -, hxfrm, -⟩ := (enterable_of_checkPhase hleaf hcheck).fields
  have hcommit : EnclaveModeInv (commit s e) := enclaveModeInv_commit hxfrm hinv
  exact fun l hl => hcommit l ((advance_perm _).mem_iff.1 hl)

end Sys2Proof.Machine

/-! ## The internal registers, XCR0 and the performance monitoring after an entry -/

namespace Sys2Proof.Machine

open Sys2Proof.Safety

/-- Settles O31: each is the value that `crAfter` gives it. -/
theorem entryWritesInternalRegisters : Obligations.EntryWritesInternalRegisters := by
  intro s pa g henter
  obtain ⟨e, rfl, rfl, hexec⟩ := exists_commit_of_enterable henter
  exact ⟨_, hexec, rfl, rfl, rfl, rfl, rfl, rfl, rfl, rfl, rfl⟩

/-- Settles O33: with CR4.OSXSAVE = 1 the XFRM is loaded, a subset of XCR0 by R147; without it neither register is written. -/
theorem entrySwapsXcr0 : Obligations.EntrySwapsXcr0 := by
  intro s pa g henter
  obtain ⟨e, rfl, rfl, hexec⟩ := exists_commit_of_enterable henter
  obtain ⟨-, -, -, -, -, hxfrm, -⟩ := henter.fields
  refine ⟨_, hexec, fun hon => ?_, fun hoff => ?_⟩
  · exact ⟨crAfter_saveXcr0_of_osxsave e hon, if_pos hon, xcr0After_and_xcr0 hxfrm hon⟩
  · rw [commit_lp, lpAfter_cr, crAfter_saveXcr0, lpAfter_xcr0, xcr0After, hoff]
    exact ⟨rfl, rfl⟩

/-- With the suppression bit set, every counter but the two that R203 names is suppressed. -/
theorem counterSuppressed_iff {lp : LogicalProcessor} (h : lp.pmu.suppressed = true) (c : Counter) :
    counterSuppressed lp c = true ↔ c ≠ .fixedCtr1 ∧ c ≠ .fixedCtr2 := by
  simp [counterSuppressed, h]

/-- Settles O46: the two suppression bits are set on an opt-out entry, and nothing of the monitoring is written on an opt-in entry. -/
theorem entrySuppressesMonitoring : Obligations.EntrySuppressesMonitoring := by
  intro s pa g henter
  obtain ⟨e, rfl, rfl, hexec⟩ := exists_commit_of_enterable henter
  refine ⟨_, hexec, fun hout => ?_, fun hin => ?_⟩
  · have hpmu := pmuAfter_of_optOut (e := e) hout
    refine ⟨counterSuppressed_iff ?_, hpmu⟩
    rw [commit_lp, lpAfter_pmu, hpmu]
  · exact ⟨pmuAfter_of_optIn (e := e) hin, if_pos hin⟩

/-! ### The other logical processors -/

theorem isSibling_iff (p : Platform) (id t : Nat) : isSibling p id t = true ↔ (id, t) ∈ p.siblings := by
  simp [isSibling]

/-- A sibling that counts in AnyThread mode is demoted (R205). -/
theorem demoteAnyThread_of_counting {p : Platform} {id : Nat} {t : LogicalProcessor} (hsib : (id, t.id) ∈ p.siblings)
    (hcount : t.pmu.anyThreadCounting = true) :
    demoteAnyThread p id t =
      { t with pmu := { t.pmu with anyThreadDemoted := true }, perfGlobalStatus := setStatusBit t.perfGlobalStatus 60 true } := by
  rw [demoteAnyThread, (isSibling_iff _ _ _).2 hsib, hcount, Bool.and_self, if_pos rfl]

/-- One that is no sibling, or does not count in AnyThread mode, is left alone (R253). -/
theorem demoteAnyThread_of_not_counting {p : Platform} {id : Nat} {t : LogicalProcessor}
    (h : (id, t.id) ∉ p.siblings ∨ t.pmu.anyThreadCounting = false) : demoteAnyThread p id t = t := by
  rw [← isSibling_iff] at h
  refine if_neg ?_
  rw [Bool.and_eq_true]
  rintro ⟨hsib, hcount⟩
  rcases h with hnot | hnot
  · exact hnot hsib
  · exact absurd (hcount.symm.trans hnot) (by decide)

/-- A demotion writes two fields only. -/
theorem demoteAnyThread_eq (p : Platform) (id : Nat) (t : LogicalProcessor) :
    demoteAnyThread p id t =
      { t with pmu := { t.pmu with anyThreadDemoted := (demoteAnyThread p id t).pmu.anyThreadDemoted }
               perfGlobalStatus := (demoteAnyThread p id t).perfGlobalStatus } := by
  unfold demoteAnyThread
  split <;> rfl

theorem otherAfter_of_optIn {s : State} {e : Entry} (h : optIn s e = true) (o : LogicalProcessor) : otherAfter s e o = o :=
  if_pos h

theorem otherAfter_of_optOut {s : State} {e : Entry} (h : optIn s e = false) (o : LogicalProcessor) :
    otherAfter s e o = demoteAnyThread s.platform s.lp.id o := by
  rw [otherAfter, h, if_neg Bool.false_ne_true]

/-- Settles O48: each other logical processor becomes `otherAfter` of it: demoted, on an opt-out entry, where it is a sibling that counts
in AnyThread mode, and else itself. -/
theorem entryDemotesSiblings : Obligations.EntryDemotesSiblings := by
  intro s pa g henter
  obtain ⟨e, rfl, rfl, hexec⟩ := exists_commit_of_enterable henter
  have hothers : (commit s e).others = s.others.map (otherAfter s e) := othersAfter_eq_map s e
  refine ⟨_, hexec, by rw [hothers, List.length_map], fun i o ho => ⟨otherAfter s e o, ?_, ?_, ?_, ?_⟩⟩
  · rw [hothers, List.getElem?_map, ho, Option.map_some]
  · cases hopt : optIn s e with
    | true => rw [otherAfter_of_optIn hopt]
    | false =>
      rw [otherAfter_of_optOut hopt]
      exact demoteAnyThread_eq _ _ _
  · intro hout hsib hcount
    rw [otherAfter_of_optOut hout, demoteAnyThread_of_counting hsib hcount]
    refine ⟨rfl, by simp [countsOtherThreads], fun b hb => ?_⟩
    rw [getLsbD_setStatusBit, Bool.or_comm]
    simp [hb]
  · intro h
    cases hopt : optIn s e with
    | true => exact otherAfter_of_optIn hopt o
    | false =>
      rw [otherAfter_of_optOut hopt]
      exact demoteAnyThread_of_not_counting (h.resolve_left (ne_true_of_eq_false hopt))

end Sys2Proof.Machine

/-! ## Debug behaviour after an entry -/

namespace Sys2Proof.Machine

open Sys2Proof.Safety

/-! ### What is due at the boundary (R199) -/

/-- An event that is due is what the step delivers (R225, R226). -/
theorem step_of_dueEvent {s : State} {f : Fault} (h : dueEvent s = some f) : step s = .fault f := by
  simp only [step, h, takeFault]

/-- The pended #DB is delivered where nothing goes before it (R225, D36). -/
theorem step_debugException {s : State} (hboundary : s.lp.pend.boundary = true) (hdebug : s.lp.pend.debugExceptions ≠ [])
    (hfirst : s.lp.pend.mtfVmExit = false ∨ s.platform.pendOrder = .debugFirst) :
    step s = .fault (.debugException s.lp.pend.debugExceptions s.lp.rip) := by
  refine step_of_dueEvent ?_
  have hdue : dueDebug s.lp = some (.debugException s.lp.pend.debugExceptions s.lp.rip) := if_neg hdebug
  rw [dueEvent, if_pos hboundary, hdue]
  rcases hfirst with hmtf | horder
  · have hnone : dueMtf s.lp = none := by rw [dueMtf, hmtf, if_neg Bool.false_ne_true]
    rw [hnone]
    cases s.platform.pendOrder <;> rfl
  · rw [horder]
    rfl

/-- The pended MTF VM exit is delivered where nothing goes before it (R226, D36). -/
theorem step_mtfVmExit {s : State} (hboundary : s.lp.pend.boundary = true) (hmtf : s.lp.pend.mtfVmExit = true)
    (hfirst : s.lp.pend.debugExceptions = [] ∨ s.platform.pendOrder = .mtfFirst) : step s = .fault (.mtfVmExit s.lp.rip) := by
  refine step_of_dueEvent ?_
  have hdue : dueMtf s.lp = some (.mtfVmExit s.lp.rip) := if_pos hmtf
  rw [dueEvent, if_pos hboundary, hdue]
  rcases hfirst with hdebug | horder
  · have hnone : dueDebug s.lp = none := if_pos hdebug
    rw [hnone]
    cases s.platform.pendOrder <;> rfl
  · rw [horder]
    rfl

/-- Settles O9: the step delivers what `dueEvent` finds: the one event there is, or the one that `PEND_ORDER` puts first. -/
theorem pendedEventsDelivered : Obligations.PendedEventsDelivered := by
  intro s hboundary
  refine ⟨fun hdebug hmtf => ?_, fun hdebug hmtf => ?_, fun hdebug hmtf => ⟨fun horder => ?_, fun horder => ?_⟩⟩
  · exact step_debugException hboundary hdebug (.inl hmtf)
  · exact step_mtfVmExit hboundary hmtf (.inl hdebug)
  · exact step_debugException hboundary hdebug (.inr horder)
  · exact step_mtfVmExit hboundary hmtf (.inr horder)

/-! ### An opt-out entry -/

/-- Settles O41: the opt-out values of the `CR_` registers, TF, the suppression bits and the pending events; with nothing pending nothing
is due. -/
theorem optOutEntrySuppressesDebug : Obligations.OptOutEntrySuppressesDebug := by
  intro s pa g henter hout
  obtain ⟨e, rfl, rfl, hexec⟩ := exists_commit_of_enterable henter
  change optIn s e = false at hout
  have hdbg := dbgAfter_of_optOut hout
  have hpend := pendAfter_of_optOut hout
  have htf : (lpAfter s e).tf = false := by rw [lpAfter_tf, hout, Bool.false_and]
  have hsave : (crAfter s e).saveTf = s.lp.tf := by rw [crAfter_saveTf, hout, if_neg Bool.false_ne_true]
  have hdue : dueEvent (commit s e) = none := by
    simp only [dueEvent, dueDebug, dueMtf, commit_lp, lpAfter_pend, hpend]
    cases (commit s e).platform.pendOrder <;> rfl
  refine ⟨_, hexec, hout, hsave, htf, ?_⟩
  rw [commit_lp, lpAfter_dbg, lpAfter_pend, hdbg, hpend]
  exact ⟨rfl, rfl, rfl, rfl, rfl, hdue⟩

/-- Settles O49: after an opt-out entry the logical processor is in enclave mode with `CR_DBGOPTIN` = 0. -/
theorem popfCannotSetTfAfterOptOut : Obligations.PopfCannotSetTfAfterOptOut := by
  intro s pa g henter hout
  obtain ⟨e, rfl, rfl, hexec⟩ := exists_commit_of_enterable henter
  change optIn s e = false at hout
  refine ⟨_, hexec, fun requested => ?_⟩
  rw [tfAfterPopf, commit_lp, lpAfter_cr, crAfter_enclaveMode, crAfter_dbgOptIn, hout]
  rfl

/-! ### An opt-in entry -/

theorem mem_addDebugEvent (events : List DebugEvent) (new ev : DebugEvent) :
    ev ∈ addDebugEvent events new ↔ ev ∈ events ∨ ev = new := by
  unfold addDebugEvent
  split
  · rename_i hmem
    exact ⟨.inl, fun h => h.elim id fun heq => heq ▸ hmem⟩
  · rw [List.mem_append, List.mem_singleton]

section
variable {s : State} {e : Entry} (hin : optIn s e = true)
include hin

/-- The pending debug exceptions after an opt-in entry: those before it, and a single step when TF = 1 (R196). -/
theorem mem_pendAfter_debugExceptions (ev : DebugEvent) :
    ev ∈ (pendAfter s e).debugExceptions ↔ ev ∈ s.lp.pend.debugExceptions ∨ (ev = .singleStep ∧ s.lp.tf = true) := by
  rw [pendAfter_of_optIn hin]
  cases s.lp.tf with
  | true => simp [mem_addDebugEvent]
  | false => simp

/-- An MTF VM exit is pending after an opt-in entry when it was or when the control is set (R197). -/
theorem pendAfter_mtfVmExit_iff :
    (pendAfter s e).mtfVmExit = true ↔ s.lp.pend.mtfVmExit = true ∨ s.lp.mtfControl = true := by
  rw [pendAfter_of_optIn hin, Bool.or_eq_true]

theorem pendAfter_debugExceptions_eq_nil_iff :
    (pendAfter s e).debugExceptions = [] ↔ s.lp.pend.debugExceptions = [] ∧ s.lp.tf = false := by
  simp only [List.eq_nil_iff_forall_not_mem, mem_pendAfter_debugExceptions hin, not_or]
  refine ⟨fun h => ⟨fun ev => (h ev).1, ?_⟩, fun ⟨hold, htf⟩ ev => ⟨hold ev, fun h => ?_⟩⟩
  · exact Bool.eq_false_of_not_eq_true fun htf => (h .singleStep).2 ⟨rfl, htf⟩
  · exact Bool.false_ne_true (htf.symm.trans h.2)

end

/-- Settles O42: the opt-in values of the `CR_` registers, RFLAGS, the pending events and the suppression bits. -/
theorem optInEntryPendsEvents : Obligations.OptInEntryPendsEvents := by
  intro s pa g henter hin
  obtain ⟨e, rfl, rfl, hexec⟩ := exists_commit_of_enterable henter
  change optIn s e = true at hin
  have hrflags : rflagsAfterEntry s.lp.rflags (optIn s e) = s.lp.rflags := if_pos hin
  have hsave : (crAfter s e).saveTf = s.lp.cr.saveTf := if_pos hin
  exact ⟨_, hexec, hin, hrflags, hsave, mem_pendAfter_debugExceptions hin, pendAfter_mtfVmExit_iff hin, dbgAfter_of_optIn hin⟩

/-- Settles O43: the single step is pended, no MTF VM exit is, and RIP is the target. -/
theorem singleStepDeliveredAfterEntry : Obligations.SingleStepDeliveredAfterEntry := by
  intro s pa g henter hin htf hcontrol hpending
  obtain ⟨e, rfl, rfl, hexec⟩ := exists_commit_of_enterable henter
  change optIn s e = true at hin
  have hstep : DebugEvent.singleStep ∈ (pendAfter s e).debugExceptions :=
    (mem_pendAfter_debugExceptions hin _).2 (.inr ⟨rfl, htf⟩)
  have hmtf : (pendAfter s e).mtfVmExit = false := by
    rw [pendAfter_of_optIn hin, hpending, hcontrol, Bool.or_self]
  exact ⟨_, _, hexec, rfl,
    step_debugException (s := commit s e) (pendAfter_boundary s e) (List.ne_nil_of_mem hstep) (.inl hmtf), hstep⟩

/-- Settles O44: the MTF VM exit is pended, and a #DB beside it exactly when TF = 1 or one was pending; RIP is the target. -/
theorem mtfExitDeliveredAfterEntry : Obligations.MtfExitDeliveredAfterEntry := by
  intro s pa g henter hin hpended
  obtain ⟨e, rfl, rfl, hexec⟩ := exists_commit_of_enterable henter
  change optIn s e = true at hin
  have hboundary : (commit s e).lp.pend.boundary = true := pendAfter_boundary s e
  have hmtf : (commit s e).lp.pend.mtfVmExit = true := (pendAfter_mtfVmExit_iff hin).2 hpended.symm
  have hnil := pendAfter_debugExceptions_eq_nil_iff hin
  refine ⟨_, hexec, rfl, fun htf hnone => ?_, fun hbeside => ⟨fun horder => ?_, fun horder => ?_⟩⟩
  · exact step_mtfVmExit hboundary hmtf (.inl (hnil.2 ⟨hnone, htf⟩))
  · exact step_mtfVmExit hboundary hmtf (.inr horder)
  · have hdebug : (commit s e).lp.pend.debugExceptions ≠ [] := fun h => by
      obtain ⟨hnone, htf⟩ := hnil.1 h
      exact hbeside.elim (fun hset => Bool.false_ne_true (htf.symm.trans hset)) (absurd hnone)
    exact ⟨_, step_debugException hboundary hdebug (.inr horder), mem_pendAfter_debugExceptions hin⟩

/-! ### Breakpoints -/

/-- A code breakpoint that does not overlap ELRANGE is suppressed by the bit of R194. -/
theorem codeBreakpointSuppressed_of_outside {lp : LogicalProcessor} {a : LinAddr} {len : Nat}
    (h : ¬overlapsElrange lp.cr a len = true) :
    codeBreakpointSuppressed lp a len = lp.dbg.suppressCodeBpOutsideElrange := if_neg h

/-- With both bits set every code breakpoint is suppressed (R194, R195 (a)). -/
theorem codeBreakpointSuppressed_of_both {lp : LogicalProcessor} (hin : lp.dbg.suppressCodeBpInElrange = true)
    (hout : lp.dbg.suppressCodeBpOutsideElrange = true) (a : LinAddr) (len : Nat) : codeBreakpointSuppressed lp a len = true := by
  rw [codeBreakpointSuppressed, hin, hout, ite_self]

/-- With the bit of R195 (a) set, the data breakpoints that overlap ELRANGE are suppressed (C10). -/
theorem dataBreakpointSuppressed_iff {lp : LogicalProcessor} (h : lp.dbg.suppressDataBpInElrange = true) (a : LinAddr)
    (len : Nat) : dataBreakpointSuppressed lp a len = true ↔ OverlapsRange lp.cr.elrangeBase lp.cr.elrangeSize a len := by
  rw [dataBreakpointSuppressed, h, Bool.and_true, overlapsElrange_iff]

/-- Settles O45: ELRANGE is the SECS's (R172), so a breakpoint overlaps it as `overlapsElrange` says, and the suppression bits are those
of `dbgAfter`. -/
theorem entrySuppressesBreakpoints : Obligations.EntrySuppressesBreakpoints := by
  intro s pa g henter
  obtain ⟨e, rfl, rfl, hexec⟩ := exists_commit_of_enterable henter
  have houtside : (commit s e).lp.dbg.suppressCodeBpOutsideElrange = true := dbgAfter_suppressCodeBpOutsideElrange s e
  refine ⟨_, hexec, fun a len => ⟨fun hnot => ?_, fun hout => ?_⟩⟩
  · exact (codeBreakpointSuppressed_of_outside fun h => hnot ((overlapsElrange_iff _ _ _).1 h)).trans houtside
  · have hdbg : (commit s e).lp.dbg = _ := dbgAfter_of_optOut hout
    exact ⟨codeBreakpointSuppressed_of_both (by rw [hdbg]) houtside a len, dataBreakpointSuppressed_iff (by rw [hdbg]) a len⟩

end Sys2Proof.Machine

/-! ## What an entry's stores leave in memory -/

namespace Sys2Proof.Machine

open Sys2Proof.Safety

/-- Fields of structures in different pages share no byte. -/
theorem not_storedAt_of_otherPage {b b' : PhysAddr} {f f' : Config.Field} (hf : b.toNat % 4096 + f.offset + f.bytes ≤ 4096)
    (hf' : b'.toNat % 4096 + f'.offset + f'.bytes ≤ 4096) (hpage : b.toNat / 4096 ≠ b'.toNat / 4096) (a : Nat)
    (h : StoredAt b f a) : ¬StoredAt b' f' a :=
  fun h' => hpage ((storedAt_page hf h).symm.trans (storedAt_page hf' h'))

/-- Fields of one structure that lie apart share no byte. -/
theorem not_storedAt_of_apart {b : PhysAddr} {f f' : Config.Field} (hf : b.toNat % 4096 + f.offset + f.bytes ≤ 4096)
    (hf' : b.toNat % 4096 + f'.offset + f'.bytes ≤ 4096) (hapart : Apart f' f) (a : Nat) (h : StoredAt b f a) :
    ¬StoredAt b f' a := by
  intro h'
  obtain ⟨i, hi, rfl⟩ := storedAt_toNat hf h
  obtain ⟨j, hj, heq⟩ := storedAt_toNat hf' h'
  omega

/-- A word stored in a field of 8 bytes is read back whole. -/
theorem readField_writeField_word {m : Memory} (hwf : Memory.wf m = true) (b : PhysAddr) {f : Config.Field} (hf : f.bytes = 8)
    (v : Word) : Memory.readField (Memory.writeField m b f v) b f = v := by
  apply BitVec.eq_of_toNat_eq
  rw [Memory.readField_writeField_same hwf b (by omega), hf]
  exact Nat.mod_eq_of_lt v.isLt

/-- A field of a structure that starts a page lies in that page. -/
theorem fieldOk_within {b : PhysAddr} {f : Config.Field} (hb : Aligned4K b) (hf : FieldOk f) :
    b.toNat % 4096 + f.offset + f.bytes ≤ 4096 := by
  simp only [Aligned4K] at hb
  omega

/-- A SECS depends on the fields that EENTER reads of it alone. -/
theorem readSecs_congr {l : Config.SecsLayout} {m m' : Memory} {b : PhysAddr}
    (h : ∀ f ∈ secsFields l, Memory.readField m' b f = Memory.readField m b f) : readSecs l m' b = readSecs l m b := by
  simp only [secsFields, List.forall_mem_cons] at h
  obtain ⟨hsize, hbaseaddr, hframe, hattributes, hxfrm, -⟩ := h
  simp only [readSecs, hsize, hbaseaddr, hframe, hattributes, hxfrm]

/-- A TCS depends on the fields that EENTER keeps, but for its STATE. -/
theorem readTcs_congr {l : Config.TcsLayout} {m m' : Memory} {b : PhysAddr}
    (h : ∀ f ∈ keptFields l, Memory.readField m' b f = Memory.readField m b f) :
    readTcs l m' b = { readTcs l m b with state := (readTcs l m' b).state } := by
  simp only [keptFields, List.forall_mem_cons] at h
  obtain ⟨hflags, hossa, hcssa, hnssa, hoentry, hofsbase, hogsbase, hfslimit, hgslimit, -⟩ := h
  simp only [readTcs, hflags, hossa, hcssa, hnssa, hoentry, hofsbase, hogsbase, hfslimit, hgslimit]

/-- U_RBP, stored last, holds the outside RBP (R181, D13). -/
theorem readField_memAfter_uRbp {s : State} (e : Entry) (hwf : Memory.wf s.mem = true) :
    Memory.readField (memAfter s e) e.gprPa s.platform.gprsgxLayout.uRbpField = truncXlen s.lp.mode64 s.lp.gpr.rbp :=
  readField_writeField_word (Memory.writeField_wf (Memory.writeField_wf (Memory.writeField_wf hwf _ _ _) _ _ _) _ _ _) _ rfl _

section
variable {s : State} {e : Entry} (henter : Enterable s e.tcsPa e.gprPa) (hlayout : LayoutOk s.platform)
  (hbase : BaseAligned s e.tcsPa)
include henter

/-- The TCS and the GPR area are in different pages (R132, R156). -/
theorem tcsPa_page_ne_gprPa : e.tcsPa.toNat / 4096 ≠ e.gprPa.toNat / 4096 :=
  page_ne_gprPa henter (by simp [tcsPa_pt henter])

include hlayout hbase

theorem uRspField_within : e.gprPa.toNat % 4096 + s.platform.gprsgxLayout.uRspField.offset
    + s.platform.gprsgxLayout.uRspField.bytes ≤ 4096 := by
  have hgpr := gprPa_toNat_mod henter hlayout hbase
  obtain ⟨-, -, hsize, hrsp, -⟩ := hlayout
  simp only [Config.GprsgxLayout.uRspField]
  omega

theorem uRbpField_within : e.gprPa.toNat % 4096 + s.platform.gprsgxLayout.uRbpField.offset
    + s.platform.gprsgxLayout.uRbpField.bytes ≤ 4096 := by
  have hgpr := gprPa_toNat_mod henter hlayout hbase
  obtain ⟨-, -, hsize, -, hrbp, -⟩ := hlayout
  simp only [Config.GprsgxLayout.uRbpField]
  omega

/-- The stores to the GPR area are to no field of the TCS. -/
theorem tcsField_not_storedAt_gprArea {f : Config.Field} (hf : FieldOk f) (a : Nat) (h : StoredAt e.tcsPa f a) :
    ¬StoredAt e.gprPa s.platform.gprsgxLayout.uRspField a ∧ ¬StoredAt e.gprPa s.platform.gprsgxLayout.uRbpField a :=
  have hwithin := fieldOk_within (tcsPa_aligned henter.page) hf
  have hpage := tcsPa_page_ne_gprPa henter
  ⟨not_storedAt_of_otherPage hwithin (uRspField_within henter hlayout hbase) hpage a h,
    not_storedAt_of_otherPage hwithin (uRbpField_within henter hlayout hbase) hpage a h⟩

/-- A field of the TCS that lies apart from STATE and AEP is as before the entry (R185). -/
theorem readField_memAfter_keptField {f : Config.Field} (hf : f ∈ keptFields s.platform.tcsLayout) :
    Memory.readField (memAfter s e) e.tcsPa f = Memory.readField s.mem e.tcsPa f := by
  have ⟨⟨⟨hstate, _⟩, ⟨haep, _⟩, _, hkept⟩, _⟩ := hlayout
  obtain ⟨hfield, hapartState, hapartAep⟩ := hkept f hf
  have haligned := tcsPa_aligned henter.page
  have hwithin := fieldOk_within haligned hfield
  refine readField_memAfter_of_outside s e fun a ha => ?_
  obtain ⟨hrsp, hrbp⟩ := tcsField_not_storedAt_gprArea henter hlayout hbase hfield a ha
  rintro (h | h | h | h)
  · exact not_storedAt_of_apart hwithin (fieldOk_within haligned hstate) hapartState a ha h
  · exact not_storedAt_of_apart hwithin (fieldOk_within haligned haep) hapartAep a ha h
  · exact hrsp h
  · exact hrbp h

/-! ### The stores read back -/

section
variable (hwf : Memory.wf s.mem = true)
include hwf

/-- TCS.AEP holds the AEP: the later stores go to another page (R174). -/
theorem readField_memAfter_aep :
    Memory.readField (memAfter s e) e.tcsPa s.platform.tcsLayout.aep = truncXlen s.lp.mode64 s.lp.gpr.rcx := by
  have ⟨⟨_, ⟨hfield, hbytes⟩, _⟩, _⟩ := hlayout
  have hgprArea := tcsField_not_storedAt_gprArea henter hlayout hbase hfield
  unfold memAfter
  rw [readField_writeField_of_disjoint _ _ fun a ha => (hgprArea a ha).2,
    readField_writeField_of_disjoint _ _ fun a ha => (hgprArea a ha).1,
    readField_writeField_word (Memory.writeField_wf hwf _ _ _) _ hbytes]

/-- U_RSP holds the outside RSP: the later store goes to U_RBP (R181, D13). -/
theorem readField_memAfter_uRsp :
    Memory.readField (memAfter s e) e.gprPa s.platform.gprsgxLayout.uRspField = truncXlen s.lp.mode64 s.lp.gpr.rsp := by
  have hapart : Apart s.platform.gprsgxLayout.uRbpField s.platform.gprsgxLayout.uRspField := by
    obtain ⟨-, -, -, -, -, hplaces⟩ := hlayout
    exact hplaces.symm
  unfold memAfter
  rw [readField_writeField_of_disjoint _ _
      (not_storedAt_of_apart (uRspField_within henter hlayout hbase) (uRbpField_within henter hlayout hbase) hapart),
    readField_writeField_word (Memory.writeField_wf (Memory.writeField_wf hwf _ _ _) _ _ _) _ rfl]

end

end

/-- Settles O36: each of the four fields shares no byte with those stored after it. -/
theorem entryStoresReadBack : Obligations.EntryStoresReadBack := by
  intro s pa g henter hwf hlayout hbase
  obtain ⟨e, rfl, rfl, hexec⟩ := exists_commit_of_enterable henter
  refine ⟨_, hexec, ?_⟩
  simp only [toNat_mod_xlen, BitVec.toNat_inj, commit_mem]
  exact ⟨readField_memAfter_aep henter hlayout hbase hwf, readField_memAfter_uRsp henter hlayout hbase hwf,
    readField_memAfter_uRbp e hwf, by
      rw [tcsAt, readTcs, commit_mem]
      exact readField_memAfter_state henter hlayout hbase hwf⟩

/-! ### The SECS and the other TCS fields -/

section
variable {s : State} {e : Entry} (henter : Enterable s e.tcsPa e.gprPa) (hlayout : LayoutOk s.platform)
  (hbuilt : EnclavesBuilt s)
include henter hbuilt

/-- The SECS's page is neither the TCS's nor the GPR area's: they have different types (R132, R156, D25). -/
theorem tmpSecs_page_ne : (tmpSecs s e.tcsPa).toNat / 4096 ≠ e.tcsPa.toNat / 4096
    ∧ (tmpSecs s e.tcsPa).toNat / 4096 ≠ e.gprPa.toNat / 4096 := by
  obtain ⟨-, hsecs, -⟩ := hbuilt _ (tcsPa_pt henter)
  exact ⟨page_ne_of_pt_ne (s := s) (by simp [hsecs, tcsPa_pt henter]), page_ne_gprPa henter (by simp [hsecs])⟩

include hlayout

/-- An entry changes no byte of the SECS's page. -/
theorem byte_memAfter_secs {i : Nat} (hi : i < 4096) :
    Memory.byte (memAfter s e) (tmpSecs s e.tcsPa + BitVec.ofNat 64 i).toNat
      = Memory.byte s.mem (tmpSecs s e.tcsPa + BitVec.ofNat 64 i).toNat := by
  obtain ⟨haligned, -, hbase⟩ := hbuilt _ (tcsPa_pt henter)
  obtain ⟨htcs, hgpr⟩ := tmpSecs_page_ne henter hbuilt
  simp only [Aligned4K] at haligned
  have hpage : (tmpSecs s e.tcsPa + BitVec.ofNat 64 i).toNat / 4096 = (tmpSecs s e.tcsPa).toNat / 4096 := by
    rw [toNat_add_ofNat_of_lt (by omega)]
    omega
  exact byte_memAfter_of_otherPage hlayout (tcsPa_aligned henter.page) (gprPa_toNat_mod henter hlayout hbase) e.xsavePages
    (hpage ▸ htcs) (hpage ▸ hgpr)

/-- An entry changes no field of the SECS. -/
theorem secsAt_commit : secsAt (commit s e) e.tcsPa = secsAt s e.tcsPa := by
  obtain ⟨haligned, hsecs, hbase⟩ := hbuilt _ (tcsPa_pt henter)
  obtain ⟨htcs, -⟩ := tmpSecs_page_ne henter hbuilt
  have ⟨_, hfields, _⟩ := hlayout
  simp only [secsAt, tmpSecs_commit, commit_platform, commit_mem]
  exact readSecs_congr fun f hf =>
    readField_memAfter_of_otherPage henter hlayout hbase haligned (hfields f hf) (by simp [hsecs]) htcs

/-- An entry changes no field of the TCS that is kept. -/
theorem tcsAt_commit :
    tcsAt (commit s e) e.tcsPa = { tcsAt s e.tcsPa with state := (tcsAt (commit s e) e.tcsPa).state } := by
  obtain ⟨-, -, hbase⟩ := hbuilt _ (tcsPa_pt henter)
  simp only [tcsAt, commit_platform, commit_mem]
  exact readTcs_congr fun f hf => readField_memAfter_keptField henter hlayout hbase hf

end

/-- Settles O39: the stores are to the TCS's page and the GPR area's, not the SECS's, and in the TCS's to STATE and AEP only. -/
theorem entryKeepsSecsAndTcs : Obligations.EntryKeepsSecsAndTcs := by
  intro s pa g henter hlayout hbuilt
  obtain ⟨e, rfl, rfl, hexec⟩ := exists_commit_of_enterable henter
  refine ⟨_, hexec, fun i hi => ?_, secsAt_commit henter hlayout hbuilt, tcsAt_commit henter hlayout hbuilt⟩
  rw [commit_mem]
  exact byte_memAfter_secs henter hlayout hbuilt hi

end Sys2Proof.Machine

/-! ## The faults of EENTER -/

namespace Sys2Proof.Machine

open Sys2Proof.Safety

/-- A page of the SSA frame raises `#PF` at its address with the code of its row of R223, or a fault of its translation (R220, R224). -/
theorem checkEnclavePage_error_listed {s : State} {secs : PhysAddr} {cause : Config.PfCause} {a : LinAddr} {f : Fault}
    (h : checkEnclavePage s secs cause a = .error f) :
    f = .pageFault (Config.pfErrorCode cause .readWrite) a ∨ Machine.translate s a .readWrite = .error f :=
  (checkEnclavePage_error h).symm.imp_left And.right

/-- The loop's fault is that of one of the pages it visits (R151 to R153). -/
theorem checkXsavePages_error_listed {s : State} {pa : PhysAddr} {f : Fault}
    (h : checkXsavePages s pa 0 (ssaPages s pa) = .error f) :
    ∃ n < ssaPages s pa, f = .pageFault (Config.pfErrorCode .xsavePage .readWrite) (tmpSsaPage s pa n)
      ∨ Machine.translate s (tmpSsaPage s pa n) .readWrite = .error f := by
  obtain ⟨n, hn, -, hpage⟩ := checkXsavePages_error h
  rw [Nat.zero_add] at hpage
  exact ⟨n, hn, checkEnclavePage_error_listed hpage⟩

/-- Settles O26: the fault is that of the first stage that fails, and each stage raises only what is listed for it. -/
theorem onlyListedFaults : Obligations.OnlyListedFaults := by
  intro s f hfault
  obtain ⟨-, hcheck⟩ := (exec_eq_fault_iff s f).1 hfault
  rcases (checkPhase_eq_error_iff s f).1 hcheck with
    hdispatch | ⟨-, hsegments | ⟨-, htcs | ⟨pa, hpage, hfields | ⟨-, hxsave | ⟨-, hgpr | ⟨-, -, hentry⟩⟩⟩⟩⟩⟩
  · rcases (checkEnclu_eq_error_iff s.lp f).1 hdispatch with hprecheck | ⟨-, -, hgp⟩
    · exact .inr (.inl hprecheck)
    · exact .inl hgp
  · exact .inl (checkSegments_error hsegments)
  · rcases checkTcsPage_error htcs with hgp | htranslate | hpf
    · exact .inl hgp
    · exact .inr (.inr (.inr (.inl htranslate)))
    · exact .inr (.inr (.inl hpf))
  · exact .inl (checkTcsFields_error hfields)
  · exact .inr (.inr (.inr (.inr ⟨pa, hpage, .inl (checkXsavePages_error_listed hxsave)⟩)))
  · rcases checkGprArea_error hgpr with harea | hgp
    · exact .inr (.inr (.inr (.inr ⟨pa, hpage, .inr (checkEnclavePage_error_listed harea)⟩)))
    · exact .inl hgp
  · exact .inl (checkEntryPoint_error hentry)

end Sys2Proof.Machine
